-- ==== Sys2Proof/Word.lean ====
section
/-! DEFINITION. The word types of the core: symbol bytes, times, port words, and the three byte arrays of fixed length. -/

namespace Sys2Proof

/-- A symbol byte, and the unit of the persistent store (R60, R63). -/
abbrev Byte := BitVec 8

/-- A sample of the microsecond or of the millisecond counter: 32 bits, wrapping (R9, R13). -/
abbrev Time := BitVec 32

/-- An address of the persistent store (R60). -/
abbrev NvAddr := BitVec 16

/-- The edge word EW, 65 bits (R81). -/
abbrev EdgeWord := BitVec 65

/-- The command word CW, 100 bits (R83). -/
abbrev CmdWord := BitVec 100

/-- The response word RW, 153 bits (R86). -/
abbrev RespWord := BitVec 153

/-- Ten symbol bytes: the shape of BUF and MSG (R27, R28). -/
abbrev Message := Vector Byte 10

/-- Eight symbol bytes: a pair entry (R37). -/
abbrev Entry := Vector Byte 8

/-- The nine 16-bit statistics counters (R39). -/
abbrev StatBlock := Vector (BitVec 16) 9

end Sys2Proof
end

