-- ==== Sys2Proof/Syntax.lean ====
section
/-! DEFINITION. The operations of the core: one constructor per row of spec/opcode_table.json. An operand is what the
operation reads; the bits a sub-format does not name are ignored on decode (R84, R92) and so are not here. -/

namespace Sys2Proof

/-- The operations (R85, R100): EDGE on the edge port, the eleven commands and the five reserved codes on the host port. -/
inductive Instr where
  /-- EDGE level, ts, ms (R81, R100) -/
  | edge (level : BitVec 1) (ts ms : Time)
  /-- ISRDY, op 0x1 (R201) -/
  | isrdy
  /-- GETMSG, op 0x3 (R202) -/
  | getmsg
  /-- SINCE ms, op 0x4 (R203) -/
  | since (ms : Time)
  /-- SETREP threshold, timeout, op 0x5 (R204) -/
  | setrep (threshold timeout : BitVec 8)
  /-- ADDPAIR c0, .., c7, op 0x6 (R205) -/
  | addpair (c : Entry)
  /-- PAIRBEG timeout, ms, op 0x7 (R206) -/
  | pairbeg (timeout : BitVec 8) (ms : Time)
  /-- GETPAIR index, op 0x8 (R207) -/
  | getpair (index : BitVec 8)
  /-- CLRPAIR, op 0x9 (R208) -/
  | clrpair
  /-- GETSTAT, op 0xA (R209) -/
  | getstat
  /-- SETSTAT enable, op 0xB (R210) -/
  | setstat (enable : BitVec 1)
  /-- INIT, op 0xC (R200) -/
  | init
  /-- the reserved code 0x0 (R211) -/
  | reserved0
  /-- the reserved code 0x2, the place of the out-of-scope setTranslateMode (R85, R211) -/
  | reserved2
  /-- the reserved code 0xD (R211) -/
  | reservedD
  /-- the reserved code 0xE (R211) -/
  | reservedE
  /-- the reserved code 0xF (R211) -/
  | reservedF
deriving DecidableEq, Repr

/-- The two request ports (R5, R80). -/
inductive Port where
  | edge
  | host
deriving DecidableEq, Repr

/-- One request word on one port (R80): a decoder tells the operation from the port and, on the host port, from `op`. -/
inductive Request where
  | edge (w : EdgeWord)
  | host (w : CmdWord)
deriving DecidableEq, Repr

end Sys2Proof
end

