-- ==== Sys2Proof/Decode.lean ====
section
/-! DEFINITION. The decoder and the encoder of the two request formats EW and CW (R80 to R85, R92), the byte form of
a word, and the reading of a row of spec/opcode_table.json. -/

namespace Sys2Proof

/-! ### Fields -/

/-- The field `op`, CW[99:96] (R83). -/
def cmdOp (w : CmdWord) : BitVec 4 := w.extractLsb' 96 4

/-- The field `ms`, CW[95:64] (R83). -/
def cmdMs (w : CmdWord) : Time := w.extractLsb' 64 32

/-- The field `arg`, CW[63:0] (R83). -/
def cmdArg (w : CmdWord) : BitVec 64 := w.extractLsb' 0 64

/-- Byte `i` of the argument, arg[8i+7 : 8i] (R84). -/
def argByte (arg : BitVec 64) (i : Nat) : Byte := arg.extractLsb' (8 * i) 8

/-- The eight bytes of sub-format P: entry byte 0 in the least significant byte (R84). -/
def argEntry (arg : BitVec 64) : Entry :=
  #v[argByte arg 0, argByte arg 1, argByte arg 2, argByte arg 3, argByte arg 4, argByte arg 5, argByte arg 6,
     argByte arg 7]

/-! ### Decoding -/

/-- The edge port: every 65-bit value is an EDGE (R81, R82). -/
def decodeEdge (w : EdgeWord) : Instr :=
  .edge (w.extractLsb' 64 1) (w.extractLsb' 32 32) (w.extractLsb' 0 32)

/-- The opcode map of the host port (R85): the operation of the code `op`, with the operands its sub-format takes
from `ms` and `arg` (R84). The last row is the one code left, 0xF. -/
def decodeOp (op : Nat) (ms : Time) (arg : BitVec 64) : Instr :=
  match op with
  | 0x0 => .reserved0
  | 0x1 => .isrdy
  | 0x2 => .reserved2
  | 0x3 => .getmsg
  | 0x4 => .since ms
  | 0x5 => .setrep (argByte arg 0) (argByte arg 1)
  | 0x6 => .addpair (argEntry arg)
  | 0x7 => .pairbeg (argByte arg 0) ms
  | 0x8 => .getpair (argByte arg 0)
  | 0x9 => .clrpair
  | 0xA => .getstat
  | 0xB => .setstat (arg.extractLsb' 0 1)
  | 0xC => .init
  | 0xD => .reservedD
  | 0xE => .reservedE
  | _ => .reservedF

/-- The host command port: every 100-bit value decodes (R83 to R85, R91). -/
def decodeCmd (w : CmdWord) : Instr := decodeOp (cmdOp w).toNat (cmdMs w) (cmdArg w)

/-- The decoder: from the word and the port it arrives on (R80). -/
def decode (r : Request) : Instr :=
  match r with
  | .edge w => decodeEdge w
  | .host w => decodeCmd w

/-! ### Encoding -/

/-- An edge word from its fields (R81). -/
def edgeWord (level : BitVec 1) (ts ms : Time) : EdgeWord := level ++ ts ++ ms

/-- A command word from its fields (R83). -/
def cmdWord (op : BitVec 4) (ms : Time) (arg : BitVec 64) : CmdWord := op ++ ms ++ arg

/-- The argument of sub-format P (R84, R95). -/
def entryArg (e : Entry) : BitVec 64 := e[7] ++ e[6] ++ e[5] ++ e[4] ++ e[3] ++ e[2] ++ e[1] ++ e[0]

/-- The canonical word of each operation: every ignored bit 0 (R92, R95). -/
def encode (i : Instr) : Request :=
  match i with
  | .edge level ts ms => .edge (edgeWord level ts ms)
  | .isrdy => .host (cmdWord 0x1 0 0)
  | .getmsg => .host (cmdWord 0x3 0 0)
  | .since ms => .host (cmdWord 0x4 ms 0)
  | .setrep threshold timeout => .host (cmdWord 0x5 0 ((0 : BitVec 48) ++ timeout ++ threshold))
  | .addpair e => .host (cmdWord 0x6 0 (entryArg e))
  | .pairbeg timeout ms => .host (cmdWord 0x7 ms ((0 : BitVec 56) ++ timeout))
  | .getpair index => .host (cmdWord 0x8 0 ((0 : BitVec 56) ++ index))
  | .clrpair => .host (cmdWord 0x9 0 0)
  | .getstat => .host (cmdWord 0xA 0 0)
  | .setstat enable => .host (cmdWord 0xB 0 ((0 : BitVec 63) ++ enable))
  | .init => .host (cmdWord 0xC 0 0)
  | .reserved0 => .host (cmdWord 0x0 0 0)
  | .reserved2 => .host (cmdWord 0x2 0 0)
  | .reservedD => .host (cmdWord 0xD 0 0)
  | .reservedE => .host (cmdWord 0xE 0 0)
  | .reservedF => .host (cmdWord 0xF 0 0)

/-- The bits of a CW that the operation of code `op` reads: `op` itself, `ms` for the commands that use it (R85), and
the `arg` bits its sub-format names (R84). All others are the ignored bits of R92. -/
def usedBits (op : Nat) : CmdWord :=
  match op with
  | 0x4 => 0xfffffffff0000000000000000
  | 0x5 => 0xf00000000000000000000ffff
  | 0x6 => 0xf00000000ffffffffffffffff
  | 0x7 => 0xfffffffff00000000000000ff
  | 0x8 => 0xf0000000000000000000000ff
  | 0xB => 0xf000000000000000000000001
  | _ => 0xf000000000000000000000000

/-- A CW in canonical form: every ignored bit is 0 (R92). -/
def canonicalCmd (w : CmdWord) : Bool := w &&& usedBits (cmdOp w).toNat == w

/-! ### The byte form of a word (log entry 7) -/

/-- Why the byte form of a word is rejected. Safe: such bytes stand for no word of the port. -/
inductive DecodeError where
  /-- not the number of bytes that holds a word of the port: 9 for EW, 13 for CW -/
  | wrongLength
  /-- a bit above the word's width is set -/
  | paddingNotZero
deriving DecidableEq, Repr

/-- Bytes, least significant first, as one number. -/
def natOfBytes (bs : List Byte) : Nat := bs.foldr (fun b n => b.toNat + 256 * n) 0

/-- The `n` bytes of a number, least significant first. -/
def bytesOfNat (n w : Nat) : List Byte :=
  match n with
  | 0 => []
  | n + 1 => BitVec.ofNat 8 w :: bytesOfNat n (w / 256)

/-- How many bytes hold a word of the port: 65 bits in 9, 100 bits in 13. -/
def portBytes (p : Port) : Nat :=
  match p with
  | .edge => 9
  | .host => 13

/-- The width of the port's words (R80). -/
def portBits (p : Port) : Nat :=
  match p with
  | .edge => 65
  | .host => 100

/-- The request whose word on port `p` has the value `w`. -/
def requestOfNat (p : Port) (w : Nat) : Request :=
  match p with
  | .edge => .edge (BitVec.ofNat 65 w)
  | .host => .host (BitVec.ofNat 100 w)

/-- The decoder on any bytes: the bytes of one word of port `p`, least significant first. -/
def decodeBytes (p : Port) (bs : List Byte) : Except DecodeError Instr :=
  if bs.length ≠ portBytes p then .error .wrongLength
  else if natOfBytes bs ≥ 2 ^ portBits p then .error .paddingNotZero
  else .ok (decode (requestOfNat p (natOfBytes bs)))

/-! ### A row of spec/opcode_table.json -/

/-- The port of a row that is `nbits` bits long: the 65-bit EW row fills 72 bits in whole bytes, the 100-bit CW rows
fill 104. -/
def tablePort (nbits : Nat) : Port := if nbits ≤ 72 then .edge else .host

/-- What the decoder reads from an instruction whose bits are `w`, numbered as spec/opcode_table.json numbers them. -/
def decodeTableWord (nbits w : Nat) : Option Instr :=
  let p := tablePort nbits
  if w ≥ 2 ^ (8 * portBytes p) then none
  else
    match decodeBytes p (bytesOfNat (portBytes p) w) with
    | .ok i => some i
    | .error _ => none

end Sys2Proof
end

