-- ==== Sys2Proof/Machine/Classifier.lean ====
section
/-! DEFINITION. The pulse classifier, the comparator tree (R88, R101 to R104). -/

namespace Sys2Proof.Machine

/-- The nine event codes of R88. Codes 9 to 15 are never produced (R93) and have no constructor (log entry 9). -/
inductive Event where
  /-- EV_N0, code 0: noise, level 0 -/
  | n0
  /-- EV_N1, code 1: noise, level 1 -/
  | n1
  /-- EV_S0, code 2: short, level 0 -/
  | s0
  /-- EV_S1, code 3: short, level 1 -/
  | s1
  /-- EV_L0, code 4: long, level 0 -/
  | l0
  /-- EV_L1, code 5: long, level 1 -/
  | l1
  /-- EV_G0, code 6: gap, level 0 -/
  | g0
  /-- EV_G1, code 7: gap, level 1 -/
  | g1
  /-- EV_X, code 8: illegal -/
  | x
deriving DecidableEq, Repr

/-- The event code `ev`, 4 bits (R88). -/
def Event.code (e : Event) : BitVec 4 :=
  match e with
  | .n0 => 0
  | .n1 => 1
  | .s0 => 2
  | .s1 => 3
  | .l0 => 4
  | .l1 => 5
  | .g0 => 6
  | .g1 => 7
  | .x => 8

/-- T_NOISE, T_SHORT, T_LONG, T_GAP in microseconds (R9). -/
def tNoise : Time := 120

def tShort : Time := 500

def tLong : Time := 2000

def tGap : Time := 5000

/-- Of the two events of a bucket, the one of the level. -/
def byLevel (level : BitVec 1) (low high : Event) : Event := if level = 0 then low else high

/-- `classify(level, dur)`: the whole 32-bit duration is compared, unsigned (R101). -/
def classify (level : BitVec 1) (dur : Time) : Event :=
  if dur < tNoise then byLevel level .n0 .n1
  else if dur < tShort then byLevel level .s0 .s1
  else if dur < tLong then byLevel level .l0 .l1
  else if dur > tGap then byLevel level .g0 .g1
  else .x

end Sys2Proof.Machine
end

