-- ==== Sys2Proof/Config.lean ====
section
/-! DEFINITION. The implementation parameters of R8. The spec leaves their values open, so the values of the chip
itself are opaque: nothing can be proved of them beyond the constraints the spec states. -/

namespace Sys2Proof.Config

/-- The parameters of R8 that an operation reads. The fourth, NV_INIT, is what the field `nv` of the state holds at reset
(`nvInit`). -/
structure Params where
  /-- MAX_PAIRS, the capacity of the pair store in entries: 1 to 255 -/
  maxPairs : Nat
  /-- NV_BASE, the address of the persisted count byte -/
  nvBase : NvAddr
  /-- STATS_DEFAULT[0..8], what the counters take on reset and on disable -/
  statsDefault : StatBlock
deriving DecidableEq, Repr

/-- Which of the 255 legal capacities the chip has (log entry 3). -/
opaque capacityChoice : Fin 255

/-- Which of the legal bases the chip has (log entry 3). -/
opaque baseChoice : Nat

/-- The nine default values of the chip (log entry 3). -/
opaque statsDefaultChoice : Fin 9 → BitVec 16

/-- NV_INIT of the chip: the content of the persistent store before the first operation, any function from address to
byte (R8, R76; log entry 3). -/
opaque nvInit : NvAddr → Byte

/-- MAX_PAIRS of the chip: any value from 1 to 255 (R8). -/
def maxPairs : Nat := capacityChoice.val + 1

/-- NV_BASE of the chip: any value with NV_BASE + 8·MAX_PAIRS < 2^16 (R8). -/
def nvBase : NvAddr := BitVec.ofNat 16 (baseChoice % (65536 - 8 * maxPairs))

/-- STATS_DEFAULT of the chip: any nine values (R8). -/
def statsDefault : StatBlock :=
  #v[statsDefaultChoice 0, statsDefaultChoice 1, statsDefaultChoice 2, statsDefaultChoice 3, statsDefaultChoice 4,
     statsDefaultChoice 5, statsDefaultChoice 6, statsDefaultChoice 7, statsDefaultChoice 8]

/-- The parameters of the chip. -/
def params : Params := { maxPairs := maxPairs, nvBase := nvBase, statsDefault := statsDefault }

end Sys2Proof.Config
end

