-- ==== Sys2Proof/Machine/Nv.lean ====
section
/-! DEFINITION. The persistent byte store NV (R60, R76) as plain data: reading, writing, its canonical form, and the
store that holds given contents. -/

namespace Sys2Proof.Machine

/-- The persistent byte store NV (R60, R76): the bytes that differ from what an unlisted address reads as, by rising
address. -/
abbrev Memory := List Host.Cell

/-- What an address that the list leaves out reads as. This is the list form alone and no assumption about NV_INIT: the
content at reset is listed, whatever it is (`Memory.ofContents`; DESIGN CHOICE, safe, log entry 2). -/
def Memory.unlisted : Byte := 0xFF

/-- The byte at an address: the last value written there, or what an unlisted address reads as (R76). -/
def Memory.read (m : Memory) (k : Nat) : Byte :=
  match m with
  | [] => Memory.unlisted
  | (a, b) :: rest => if a = k then b else Memory.read rest k

/-- A store of one byte (R76), keeping the canonical form. -/
def Memory.write (m : Memory) (k : Nat) (v : Byte) : Memory :=
  match m with
  | [] => if v = Memory.unlisted then [] else [(k, v)]
  | (a, b) :: rest =>
    if k < a then (if v = Memory.unlisted then (a, b) :: rest else (k, v) :: (a, b) :: rest)
    else if k = a then (if v = Memory.unlisted then rest else (k, v) :: rest)
    else (a, b) :: Memory.write rest k v

/-- The canonical form: addresses of the 16-bit space (R60), strictly rising, and no entry equal to what an unlisted
address reads as. -/
def Memory.wf (m : Memory) : Bool :=
  match m with
  | [] => true
  | (a, b) :: rest => decide (a < 65536) && b != Memory.unlisted && rest.all (fun c => decide (a < c.1)) && Memory.wf rest

/-- The bytes of the contents `f` at the `n` addresses from `a` on, in canonical form. -/
def Memory.listFrom (f : NvAddr → Byte) (n a : Nat) : Memory :=
  match n with
  | 0 => []
  | n + 1 =>
    if f (BitVec.ofNat 16 a) = Memory.unlisted then Memory.listFrom f n (a + 1)
    else (a, f (BitVec.ofNat 16 a)) :: Memory.listFrom f n (a + 1)

/-- The store whose byte at each of the 2^16 addresses is what `f` says: a total function from address to byte (R76). -/
def Memory.ofContents (f : NvAddr → Byte) : Memory := Memory.listFrom f 65536 0

end Sys2Proof.Machine
end

