-- ==== Sys2Proof/Machine/State.lean ====
section
/-! DEFINITION. The state of the machine: the nineteen registers of R20, the persistent store, the parameters, and
what stands on the ports; the reasons a step can stop; the state after reset. -/

namespace Sys2Proof.Machine

/-- DSTATE, the state of the decode FSM (R23). -/
inductive DState where
  /-- Idle, code 0 -/
  | idle
  /-- MSF, MessageStartFound, code 1 -/
  | msf
  /-- BSF, ByteStartFound, code 2 -/
  | bsf
  /-- GB, GettingByte, code 3 -/
  | gb
deriving DecidableEq, Repr

/-- One access on the NV master port (R65, R229), with the byte that was read or written. -/
inductive NvAccess where
  | read (addr : NvAddr) (b : Byte)
  | write (addr : NvAddr) (b : Byte)
deriving DecidableEq, Repr

/-- What the reset line does while the words of an arrival are presented (R240). -/
inductive ResetLine where
  /-- not asserted -/
  | released
  /-- asserted throughout: the words are not accepted (R240) -/
  | asserted
  /-- asserted, or power lost, inside the operation, when it has completed `accesses` of its NV accesses (R66, R255) -/
  | during (accesses : Nat)
deriving DecidableEq, Repr

/-- What stands on the input ports of the core at one moment (R229): at most one edge word, at most one command word,
and the reset line. -/
structure Arrival where
  edge : Option EdgeWord
  cmd : Option CmdWord
  reset : ResetLine
deriving DecidableEq, Repr

/-- The state. The first nineteen fields are the complete state of the core (R20). -/
structure State where
  /-- ENABLED (R21) -/
  enabled : Bool
  /-- PREV_TS (R22) -/
  prevTs : Time
  /-- DSTATE (R23) -/
  dstate : DState
  /-- ACC (R24) -/
  acc : Byte
  /-- BIT_CNT (R25) -/
  bitCnt : BitVec 4
  /-- BYTE_CNT (R26) -/
  byteCnt : BitVec 4
  /-- BUF[0..9] (R27) -/
  buf : Message
  /-- MSG[0..9] (R28) -/
  msg : Message
  /-- MSG_READY (R29) -/
  msgReady : Bool
  /-- REPEAT_THRESH (R30) -/
  repeatThresh : BitVec 8
  /-- REPEAT_TIMEOUT (R31) -/
  repeatTimeout : BitVec 8
  /-- REPEAT_CNT (R32) -/
  repeatCnt : BitVec 9
  /-- LAST_PKT_TIME (R33) -/
  lastPktTime : Time
  /-- PAIR_TIMEOUT (R34) -/
  pairTimeout : BitVec 8
  /-- PAIR_START (R35) -/
  pairStart : Time
  /-- PAIR_COUNT (R36) -/
  pairCount : BitVec 8
  /-- PAIR[0..MAX_PAIRS-1] (R37) -/
  pair : List Entry
  /-- STATS_EN (R38) -/
  statsEn : Bool
  /-- STAT[0..8] (R39) -/
  stat : StatBlock
  /-- NV, outside the core (R60, R76) -/
  nv : Memory
  /-- the parameters of R8 (the model's own field, log entry 3) -/
  cfg : Config.Params
  /-- what will stand on the input ports, in order (the model's own field, log entry 1) -/
  inbox : List Arrival
  /-- the word the current operation returned on the response port (the model's own field, log entry 4) -/
  resp : Option RespWord
  /-- the accesses of the current operation on the NV port, in order (the model's own field, log entry 4) -/
  nvPort : List NvAccess
deriving DecidableEq, Repr

/-- The reasons the machine stops with a fault. There is none: "the core raises no exception" (R11), "every operation
is total" (R222), and every 16-bit NV address exists (R60, R76). -/
inductive Fault where
deriving DecidableEq, Repr

/-- The reasons the machine refuses. -/
inductive Refusal where
  /-- raised by `exec` for an operation that has no meaning yet; safe. Every operation has its meaning, so nothing
  answers it. -/
  | notModelled (mnemonic : String)
deriving DecidableEq, Repr

/-- Every register at the value of R46, beside the given parameters, store and coming arrivals. -/
def State.initial (cfg : Config.Params) (nv : Memory) (inbox : List Arrival) : State where
  enabled := false
  prevTs := 0
  dstate := .idle
  acc := 0
  bitCnt := 0
  byteCnt := 0
  buf := Vector.replicate 10 0
  msg := Vector.replicate 10 0
  msgReady := false
  repeatThresh := 0
  repeatTimeout := 0
  repeatCnt := 0
  lastPktTime := 0
  pairTimeout := 0
  pairStart := 0
  pairCount := 0
  pair := List.replicate cfg.maxPairs (Vector.replicate 8 0)
  statsEn := false
  stat := cfg.statsDefault
  nv := nv
  cfg := cfg
  inbox := inbox
  resp := none
  nvPort := []

/-- The machine right after reset (R46, R240): NV holds NV_INIT (R76), nothing is presented yet (log entries 1, 2, 3). -/
def State.reset : State := State.initial Config.params (Memory.ofContents Config.nvInit) []

end Sys2Proof.Machine
end

