-- ==== Sys2Proof/Machine/Operands.lean ====
section
/-! DEFINITION. The arithmetic of the core (R13 to R18) and the byte packings of the ports (R64, R86, R87). -/

namespace Sys2Proof.Machine

/-- `sub32(a, b) = (a - b) mod 2^32`: elapsed time between two samples (R13). -/
def sub32 (a b : Time) : Time := a - b

/-- `units(e) = floor(e / 100)`: the whole 100 ms units in an elapsed time (R14). -/
def units (e : Time) : Nat := e.toNat / 100

/-- `satinc(c) = min(c + 1, 256)` (R15). -/
def satinc (c : BitVec 9) : BitVec 9 := BitVec.ofNat 9 (min (c.toNat + 1) 256)

/-- `shl1`: append the bit 1 at bit 0, losing bit 7 (R16). -/
def shl1 (a : Byte) : Byte := (a <<< 1) ||| 1

/-- `shl2`: append the bits 1, 0, losing bits 7 and 6 (R16). -/
def shl2 (a : Byte) : Byte := (a <<< 2) ||| 2

/-- `ema(a, s) = (a - (a >> 4) + s) mod 2^16` (R17). -/
def ema (a s : BitVec 16) : BitVec 16 := a - (a >>> 4) + s

/-- Message bytes 2..9, the candidate of the pair store (PAIR_OFS, R9, R37). -/
def pairBytes (m : Message) : Entry := #v[m[2], m[3], m[4], m[5], m[6], m[7], m[8], m[9]]

/-- The indices of an entry's bytes, ascending. -/
def entryIndices : List (Fin 8) := [0, 1, 2, 3, 4, 5, 6, 7]

/-- The code of DSTATE (R23, R89). -/
def DState.code (d : DState) : BitVec 2 :=
  match d with
  | .idle => 0
  | .msf => 1
  | .bsf => 2
  | .gb => 3

/-- The response word RW from its fields (R86). -/
def respWord (ok : Bool) (count : BitVec 8) (data : BitVec 144) : RespWord := BitVec.ofBool ok ++ count ++ data

/-- Ten bytes as response data: byte `i` in bits 8i+7:8i, bits 143:80 zero (R87). -/
def messageData (m : Message) : BitVec 144 :=
  (0 : BitVec 64) ++ m[9] ++ m[8] ++ m[7] ++ m[6] ++ m[5] ++ m[4] ++ m[3] ++ m[2] ++ m[1] ++ m[0]

/-- Eight bytes as response data: byte `i` in bits 8i+7:8i, bits 143:64 zero (R87). -/
def entryData (e : Entry) : BitVec 144 :=
  (0 : BitVec 80) ++ e[7] ++ e[6] ++ e[5] ++ e[4] ++ e[3] ++ e[2] ++ e[1] ++ e[0]

/-- The nine counters as response data: counter `j` in bits 16j+15:16j (R87). -/
def statData (st : StatBlock) : BitVec 144 :=
  st[8] ++ st[7] ++ st[6] ++ st[5] ++ st[4] ++ st[3] ++ st[2] ++ st[1] ++ st[0]

/-- A 32-bit number as response data: in bits 31:0 (R86). -/
def timeData (t : Time) : BitVec 144 := (0 : BitVec 112) ++ t

end Sys2Proof.Machine
end

