-- ==== Sys2Proof/Machine/Flags.lean ====
section
/-! DEFINITION. The predicates the core decides on: windows, eligibility, the session-active predicate, and the output
wire (R14, R34, R44, R152, R155, R156). The three stored flags are MSG_READY, ENABLED and STATS_EN (R41). -/

namespace Sys2Proof.Machine

/-- A window of `t` units is exceeded by the elapsed time `e` when `units(e) > t` (R14). -/
def windowExceeded (e : Time) (t : BitVec 8) : Bool := decide (units e > t.toNat)

/-- A pairing session is active exactly when PAIR_TIMEOUT ≠ 0 (R34, R41). -/
def pairingActive (s : State) : Bool := s.pairTimeout != 0

/-- The repeat filter is enabled when REPEAT_THRESH > 0 (R30, R152). -/
def repeatEnabled (s : State) : Bool := s.repeatThresh != 0

/-- Step 5 of finalization: the candidate is eligible when the filter is off or the count equals the threshold (R155). -/
def eligible (s : State) : Bool := s.repeatThresh == 0 || s.repeatThresh.setWidth 9 == s.repeatCnt

/-- The output wire `msg_ready` equals MSG_READY at all times (R44). -/
def State.msgReadyWire (s : State) : Bool := s.msgReady

end Sys2Proof.Machine
end

