-- ==== Sys2Proof/Machine/Ops.lean ====
section
/-! DEFINITION. The shared operations: the core's accesses to the persistent store and its port (R12, R60), the response port (R86),
resynchronisation, which stands where another machine takes an exception (R220, R225), and reset (R46, R240). -/

namespace Sys2Proof.Machine

/-! ### The accesses to the persistent store -/

/-- The address NV_BASE + off (R12, R60). -/
def nvAddr (p : Config.Params) (off : Nat) : NvAddr := p.nvBase + BitVec.ofNat 16 off

/-- The offset of byte `i` of entry `k` in the layout of R61. -/
def entryOffset (k i : Nat) : Nat := 1 + 8 * k + i

/-- The byte the store holds at NV_BASE + off. -/
def nvByte (s : State) (off : Nat) : Byte := s.nv.read (nvAddr s.cfg off).toNat

/-- `NVRead(off)` (R12): the byte, and the access on the NV port. -/
def nvRead (s : State) (off : Nat) : Byte × State :=
  (nvByte s off, { s with nvPort := s.nvPort ++ [.read (nvAddr s.cfg off) (nvByte s off)] })

/-- `NVWrite(off, b)` (R12): the store changed at one address, and the access on the NV port. -/
def nvWrite (s : State) (off : Nat) (b : Byte) : State :=
  { s with
    nv := s.nv.write (nvAddr s.cfg off).toNat b
    nvPort := s.nvPort ++ [.write (nvAddr s.cfg off) b] }

/-- What one access does to the store: a read nothing (R67), a write its byte (R76). -/
def applyAccess (m : Memory) (a : NvAccess) : Memory :=
  match a with
  | .read _ _ => m
  | .write addr b => m.write addr.toNat b

/-! ### The response port -/

/-- Return the response word of a host command (R5, R86). -/
def respond (s : State) (ok : Bool) (count : BitVec 8) (data : BitVec 144) : State :=
  { s with resp := some (respWord ok count data) }

/-- No operation has run yet in this step: no response on the port and no access on the NV port (log entry 4). -/
def clearOutputs (s : State) : State := { s with resp := none, nvPort := [] }

/-! ### Resynchronisation and reset -/

/-- RESYNC, the counterpart of taking an exception (R220, R225): `DSTATE <- Idle` and nothing else. There is no
return from it (R226): the next EDGE is dispatched from Idle. -/
def resync (s : State) : State := { s with dstate := .idle }

/-- Reset: every register takes the value of R46; NV is not changed (R241). -/
def resetCore (s : State) : State := State.initial s.cfg s.nv s.inbox

end Sys2Proof.Machine
end

