-- ==== Sys2Proof/Machine/PairStore.lean ====
section
/-! DEFINITION. The pair store: match, add, capture, restore, clear, read (R170 to R180), with its accesses to NV in
the order of R68. -/

namespace Sys2Proof.Machine

/-- `entry_match`: equal at every index but the don't-care index 1 (R170). -/
def entryMatch (e f : Entry) : Bool :=
  e[0] == f[0] && e[2] == f[2] && e[3] == f[3] && e[4] == f[4] && e[5] == f[5] && e[6] == f[6] && e[7] == f[7]

/-- `match_any(c)`, the CAM: some entry `k` with `0 <= k < PAIR_COUNT` matches (R171). -/
def matchAny (s : State) (c : Entry) : Bool :=
  (s.pair.take s.pairCount.toNat).any (fun e => entryMatch e c)

/-- `member(c)`: the store is empty, or an entry matches (R172). -/
def member (s : State) (c : Entry) : Bool := s.pairCount == 0 || matchAny s c

/-- The eight entry bytes to NV, `i` ascending (R68, R173). -/
def persistEntry (s : State) (k : Nat) (e : Entry) : State :=
  entryIndices.foldl (fun t (i : Fin 8) => nvWrite t (entryOffset k i) e[i]) s

/-- `add_entry(c)`: append and persist if no valid entry matches and capacity remains, else nothing at all (R173). -/
def addEntry (s : State) (c : Entry) : State :=
  if !matchAny s c && decide (s.pairCount.toNat < s.cfg.maxPairs) then
    let k := s.pairCount.toNat
    let s1 := { s with pair := s.pair.set k c }
    let s2 := persistEntry s1 k c
    let s3 := { s2 with pairCount := s.pairCount + 1 }
    nvWrite s3 0 s3.pairCount
  else s

/-- `capture(c)`: the same logic as `add_entry` (R174). -/
def capture (s : State) (c : Entry) : State := addEntry s c

/-- `PAIR[k][i] <- NVRead(1 + 8k + i)` (R175). -/
def loadByte (k : Nat) (s : State) (i : Fin 8) : State :=
  let (b, s1) := nvRead s (entryOffset k i)
  { s1 with pair := s1.pair.modify k (fun e => e.set i b) }

/-- Entry `k` from NV, `i` ascending (R175). -/
def loadEntry (s : State) (k : Nat) : State := entryIndices.foldl (loadByte k) s

/-- Entries 0 to n-1 from NV, `k` ascending (R175). -/
def loadEntries (s : State) (n : Nat) : State := (List.range n).foldl loadEntry s

/-- Entry `k` as it stands in NV, in the layout of R61. -/
def nvEntry (s : State) (k : Nat) : Entry :=
  #v[nvByte s (entryOffset k 0), nvByte s (entryOffset k 1), nvByte s (entryOffset k 2), nvByte s (entryOffset k 3),
     nvByte s (entryOffset k 4), nvByte s (entryOffset k 5), nvByte s (entryOffset k 6), nvByte s (entryOffset k 7)]

/-- `restore()`: a count above MAX_PAIRS is corruption and empties the store, in NV too (R175, conflict C3). -/
def restore (s : State) : State :=
  let (n, s1) := nvRead s 0
  if n.toNat > s1.cfg.maxPairs then nvWrite { s1 with pairCount := 0 } 0 0
  else loadEntries { s1 with pairCount := n } n.toNat

/-- `clear()`: the count, here and in NV; the entries stay (R176). -/
def clearPairs (s : State) : State := nvWrite { s with pairCount := 0 } 0 0

/-- `get(index)`: whether the index is valid, and the entry or eight zero bytes (R177). Reads registers only. -/
def getEntry (s : State) (index : BitVec 8) : Bool × Entry :=
  if index < s.pairCount then (true, s.pair.getD index.toNat (Vector.replicate 8 0)) else (false, Vector.replicate 8 0)

end Sys2Proof.Machine
end

