-- ==== Sys2Proof/Machine/Finalize.lean ====
section
/-! DEFINITION. Message finalization: repeat filter, pairing capture, membership filter (R150 to R164). -/

namespace Sys2Proof.Machine

/-- Steps 2 and 3: the new repeat count (R152, R153). The window test comes first; all ten bytes are compared. -/
def nextRepeatCnt (now : Time) (s : State) : BitVec 9 :=
  if repeatEnabled s then
    if windowExceeded (sub32 now s.lastPktTime) s.repeatTimeout then 1
    else if s.buf = s.msg then satinc s.repeatCnt
    else 1
  else 0

/-- Steps 2 to 4: the count, then LAST_PKT_TIME and MSG, unconditionally (R152, R153, R154). -/
def recordCandidate (now : Time) (s : State) : State :=
  { s with repeatCnt := nextRepeatCnt now s, lastPktTime := now, msg := s.buf }

/-- Step 7: MSG_READY is set if the candidate is a member, and is otherwise left (R159). -/
def publish (s : State) : State := if member s (pairBytes s.msg) then { s with msgReady := true } else s

/-- Steps 6 and 7 of an eligible candidate: an active session ends; within its window the candidate is captured and
not published, after it the candidate is filtered as without a session (R156, R157, R158). -/
def pairingStep (now : Time) (s : State) : State :=
  if pairingActive s then
    let ended := { s with pairTimeout := 0 }
    if windowExceeded (sub32 now s.pairStart) s.pairTimeout then publish ended
    else capture ended (pairBytes s.msg)
  else publish s

/-- `finalize(ms)`: the seven steps in order, with `now <- ms` (R150, R151, R160). -/
def finalize (ms : Time) (s : State) : State :=
  let s4 := recordCandidate ms s
  if eligible s4 then pairingStep ms s4 else s4

end Sys2Proof.Machine
end

