-- ==== Sys2Proof/Machine/Stats.lean ====
section
/-! DEFINITION. The pulse-width statistics block (R90, R190 to R198). -/

namespace Sys2Proof.Machine

/-- The three pulse classes (R90, R190). -/
inductive StatClass where
  /-- HIGH, class 0 -/
  | high
  /-- LOW1, class 1 -/
  | low1
  /-- LOW0, class 2 -/
  | low0
deriving DecidableEq, Repr

/-- The index of the class's max, 3·class + 0 (R192). -/
def StatClass.maxIdx (c : StatClass) : Fin 9 :=
  match c with
  | .high => 0
  | .low1 => 3
  | .low0 => 6

/-- The index of the class's min, 3·class + 1 (R192). -/
def StatClass.minIdx (c : StatClass) : Fin 9 :=
  match c with
  | .high => 1
  | .low1 => 4
  | .low0 => 7

/-- The index of the class's average, 3·class + 2 (R192). -/
def StatClass.avgIdx (c : StatClass) : Fin 9 :=
  match c with
  | .high => 2
  | .low1 => 5
  | .low0 => 8

/-- Running maximum (R194). -/
def newMax (old x : BitVec 16) : BitVec 16 := if x > old then x else old

/-- Running minimum (R195). -/
def newMin (old x : BitVec 16) : BitVec 16 := if x < old then x else old

/-- Max, min and average of one class after the sample `x` (R194, R195, R196). -/
def sampleClass (st : StatBlock) (c : StatClass) (x : BitVec 16) : StatBlock :=
  ((st.set c.maxIdx (newMax st[c.maxIdx] x)).set c.minIdx (newMin st[c.minIdx] x)).set c.avgIdx (ema st[c.avgIdx] x)

/-- `stats_update(class, dur)`: nothing while disabled (R191), else the sample is dur[15:0] (R193). -/
def statsUpdate (c : StatClass) (dur : Time) (s : State) : State :=
  if s.statsEn then { s with stat := sampleClass s.stat c (dur.setWidth 16) } else s

/-- SETSTAT's effect: enable leaves the counters (R198), disable loads the defaults (R197). -/
def setStats (enable : BitVec 1) (s : State) : State :=
  if enable = 1 then { s with statsEn := true } else { s with statsEn := false, stat := s.cfg.statsDefault }

end Sys2Proof.Machine
end

