-- ==== Sys2Proof/Machine/Fsm.lean ====
section
/-! DEFINITION. The decode FSM and the symbol accumulator (R120 to R142). -/

namespace Sys2Proof.Machine

/-- The completion check (R134, R135): at eight bits or more the byte goes to BUF; the tenth byte is finalized with
the `ms` of the current EDGE and only then DSTATE becomes Idle. A BYTE_CNT above 9 here is reached by no run (R26);
BUF has no such byte and keeps its ten (log entry 8). -/
def completionCheck (ms : Time) (s : State) : State :=
  if 8 ≤ s.bitCnt.toNat then
    let t := { s with buf := s.buf.setIfInBounds s.byteCnt.toNat s.acc, byteCnt := s.byteCnt + 1, bitCnt := 0 }
    if t.byteCnt = 10 then { finalize ms t with dstate := .idle } else { t with dstate := .bsf }
  else s

/-- State Idle: event 7 starts a message, any other stays (R121, R122). -/
def idleStep (ev : Event) (s : State) : State :=
  match ev with
  | .g1 => { s with dstate := .msf }
  | .n0 | .n1 | .s0 | .s1 | .l0 | .l1 | .g0 | .x => s

/-- State MSF (R123, R124, R125). -/
def msfStep (ev : Event) (s : State) : State :=
  match ev with
  | .s0 => s
  | .s1 => { s with byteCnt := 0, bitCnt := 0, dstate := .bsf }
  | .n0 | .n1 | .l0 | .l1 | .g0 | .g1 | .x => resync s

/-- State BSF (R126 to R129). Event 3 leaves ACC as it is (decision D7). -/
def bsfStep (ev : Event) (s : State) : State :=
  match ev with
  | .s0 => s
  | .s1 => { s with bitCnt := 0, dstate := .gb }
  | .l1 => { s with bitCnt := 1, acc := 0, dstate := .gb }
  | .n0 | .n1 | .l0 | .g0 | .g1 | .x => resync s

/-- State GB (R130 to R133). -/
def gbStep (ev : Event) (dur ms : Time) (s : State) : State :=
  match ev with
  | .s0 => statsUpdate .high dur s
  | .s1 => completionCheck ms (statsUpdate .low1 dur { s with acc := shl1 s.acc, bitCnt := s.bitCnt + 1 })
  | .l1 => completionCheck ms (statsUpdate .low0 dur { s with acc := shl2 s.acc, bitCnt := s.bitCnt + 2 })
  | .n0 | .n1 | .l0 | .g0 | .g1 | .x => resync s

/-- `fsm_step(ev, dur, ms)`: exactly one transition, by DSTATE and the event (R120). -/
def fsmStep (ev : Event) (dur ms : Time) (s : State) : State :=
  match s.dstate with
  | .idle => idleStep ev s
  | .msf => msfStep ev s
  | .bsf => bsfStep ev s
  | .gb => gbStep ev dur ms s

end Sys2Proof.Machine
end

