-- ==== Sys2Proof/Machine/Edge.lean ====
section
/-! DEFINITION. The operation of the edge port (R100, R107). -/

namespace Sys2Proof.Machine

/-- The front end of an enabled EDGE: the duration against PREV_TS, the new PREV_TS, the event, one FSM transition (R100). -/
def edgeFrontEnd (level : BitVec 1) (ts ms : Time) (s : State) : State :=
  let dur := sub32 ts s.prevTs
  fsmStep (classify level dur) dur ms { s with prevTs := ts }

/-- EDGE (R100); with ENABLED = 0 it has no effect at all (R107). It returns no response. -/
def execEdge (level : BitVec 1) (ts ms : Time) (s : State) : Host.Outcome State Fault Refusal :=
  .next (if s.enabled then edgeFrontEnd level ts ms s else s)

end Sys2Proof.Machine
end

