-- ==== Sys2Proof/Machine/HostCommands.lean ====
section
/-! DEFINITION. The eleven commands of the host port (R200 to R210), with the responses of R87. -/

namespace Sys2Proof.Machine

/-- ISRDY (R201). -/
def execIsrdy (s : State) : Host.Outcome State Fault Refusal := .next (respond s s.msgReady 0 0)

/-- GETMSG: the message and the clearing of MSG_READY in one operation, or failure (R202). -/
def execGetmsg (s : State) : Host.Outcome State Fault Refusal :=
  .next (if s.msgReady then respond { s with msgReady := false } true 0 (messageData s.msg) else respond s false 0 0)

/-- SINCE (R203). -/
def execSince (ms : Time) (s : State) : Host.Outcome State Fault Refusal :=
  .next (respond s true 0 (timeData (sub32 ms s.lastPktTime)))

/-- SETREP: the two configuration registers and nothing else (R204). -/
def execSetrep (threshold timeout : BitVec 8) (s : State) : Host.Outcome State Fault Refusal :=
  .next (respond { s with repeatThresh := threshold, repeatTimeout := timeout } true 0 0)

/-- ADDPAIR: ok whether or not an entry was appended; the count after it (R205). -/
def execAddpair (c : Entry) (s : State) : Host.Outcome State Fault Refusal :=
  let t := addEntry s c
  .next (respond t true t.pairCount 0)

/-- PAIRBEG: starts, restarts or (timeout 0) cancels the pairing session (R206). -/
def execPairbeg (timeout : BitVec 8) (ms : Time) (s : State) : Host.Outcome State Fault Refusal :=
  .next (respond { s with pairTimeout := timeout, pairStart := ms } true 0 0)

/-- GETPAIR: the entry or failure; the count in both cases (R207). -/
def execGetpair (index : BitVec 8) (s : State) : Host.Outcome State Fault Refusal :=
  let r := getEntry s index
  .next (respond s r.1 s.pairCount (entryData r.2))

/-- CLRPAIR (R208). -/
def execClrpair (s : State) : Host.Outcome State Fault Refusal := .next (respond (clearPairs s) true 0 0)

/-- GETSTAT: failure rather than stale data while disabled (R209). -/
def execGetstat (s : State) : Host.Outcome State Fault Refusal :=
  .next (if s.statsEn then respond s true 0 (statData s.stat) else respond s false 0 0)

/-- SETSTAT (R210). -/
def execSetstat (enable : BitVec 1) (s : State) : Host.Outcome State Fault Refusal :=
  .next (respond (setStats enable s) true 0 0)

/-- INIT: restore the pair store from NV, then enable EDGE (R200). -/
def execInit (s : State) : Host.Outcome State Fault Refusal :=
  let t := { restore s with enabled := true }
  .next (respond t true t.pairCount 0)

end Sys2Proof.Machine
end

