-- ==== Sys2Proof/Machine/Reserved.lean ====
section
/-! DEFINITION. The five reserved codes of the host port: no state change, no NV access, a response of zeros
(R91, R211). -/

namespace Sys2Proof.Machine

/-- What every reserved code does (R211). -/
def respondReserved (s : State) : Host.Outcome State Fault Refusal := .next (respond s false 0 0)

/-- Code 0x0 (R211). -/
def execReserved0 (s : State) : Host.Outcome State Fault Refusal := respondReserved s

/-- Code 0x2 (R211). -/
def execReserved2 (s : State) : Host.Outcome State Fault Refusal := respondReserved s

/-- Code 0xD (R211). -/
def execReservedD (s : State) : Host.Outcome State Fault Refusal := respondReserved s

/-- Code 0xE (R211). -/
def execReservedE (s : State) : Host.Outcome State Fault Refusal := respondReserved s

/-- Code 0xF (R211). -/
def execReservedF (s : State) : Host.Outcome State Fault Refusal := respondReserved s

end Sys2Proof.Machine
end

