-- ==== Sys2Proof/Machine/Dispatch.lean ====
section
/-! DEFINITION. The meaning of each operation: one arm per constructor of Instr. -/

namespace Sys2Proof.Machine

def exec (i : Instr) (s : State) : Host.Outcome State Fault Refusal :=
  match i with
  | .edge level ts ms => Sys2Proof.Machine.execEdge level ts ms s
  | .isrdy => Sys2Proof.Machine.execIsrdy s
  | .getmsg => Sys2Proof.Machine.execGetmsg s
  | .since ms => Sys2Proof.Machine.execSince ms s
  | .setrep threshold timeout => Sys2Proof.Machine.execSetrep threshold timeout s
  | .addpair c => Sys2Proof.Machine.execAddpair c s
  | .pairbeg timeout ms => Sys2Proof.Machine.execPairbeg timeout ms s
  | .getpair index => Sys2Proof.Machine.execGetpair index s
  | .clrpair => Sys2Proof.Machine.execClrpair s
  | .getstat => Sys2Proof.Machine.execGetstat s
  | .setstat enable => Sys2Proof.Machine.execSetstat enable s
  | .init => Sys2Proof.Machine.execInit s
  | .reserved0 => Sys2Proof.Machine.execReserved0 s
  | .reserved2 => Sys2Proof.Machine.execReserved2 s
  | .reservedD => Sys2Proof.Machine.execReservedD s
  | .reservedE => Sys2Proof.Machine.execReservedE s
  | .reservedF => Sys2Proof.Machine.execReservedF s

end Sys2Proof.Machine
end

