-- ==== Sys2Proof/Machine/Ports.lean ====
section
/-! DEFINITION. How the core serves what stands on its input ports: one operation at a time (R5), an edge before a
command presented with it (R7), reset (R240) and reset inside an operation (R66, R255). -/

namespace Sys2Proof.Machine

/-- One request word alone on its port, the reset line released. -/
def arrivalOf (r : Request) : Arrival :=
  match r with
  | .edge w => { edge := some w, cmd := none, reset := .released }
  | .host w => { edge := none, cmd := some w, reset := .released }

/-- The command word that waits while the edge presented with it is performed (R7). -/
def waiting (cmd : Option CmdWord) : List Arrival :=
  match cmd with
  | none => []
  | some w => [arrivalOf (.host w)]

/-- The operation of an arrival that is performed first: the edge if there is one, else the command (R7). -/
def Arrival.first (a : Arrival) : Option Request :=
  match a.edge, a.cmd with
  | some w, _ => some (.edge w)
  | none, some w => some (.host w)
  | none, none => none

/-- What is left of an arrival once its first operation is performed. -/
def Arrival.rest (a : Arrival) : List Arrival :=
  match a.edge with
  | some _ => waiting a.cmd
  | none => []

/-- Perform the first operation of an arrival; nothing happens when no word is presented (R6). -/
def perform (a : Arrival) (s : State) : Host.Outcome State Fault Refusal :=
  match a.first with
  | some r => exec (decode r) { s with inbox := a.rest ++ s.inbox }
  | none => .next s

/-- Reset inside an operation that ran from `s` to `t`: the store keeps what the operation's first `n` NV accesses did
to it, every register is reset, and nothing is answered (R66, R255; log entry 6). -/
def cutShort (n : Nat) (s t : State) : State :=
  let done := t.nvPort.take n
  { resetCore s with nv := done.foldl applyAccess s.nv, nvPort := done }

/-- Perform an arrival whose operation reset cuts short after `n` NV accesses. -/
def performCut (n : Nat) (a : Arrival) (s : State) : Host.Outcome State Fault Refusal :=
  match perform a s with
  | .next t => .next (cutShort n s t)
  | .fault r => .fault r
  | .refused r => .refused r

/-- Serve one arrival, already taken from the inbox. While reset is asserted no operation is accepted (R240). -/
def serve (a : Arrival) (s : State) : Host.Outcome State Fault Refusal :=
  match a.reset with
  | .released => perform a s
  | .asserted => .next (resetCore s)
  | .during n => performCut n a s

/-- One step of the machine: serve what is presented next. Between operations nothing happens (R6). -/
def serveNext (s : State) : Host.Outcome State Fault Refusal :=
  match s.inbox with
  | [] => .next s
  | a :: rest => serve a (clearOutputs { s with inbox := rest })

/-- Present the word of a table row alone on its port, before everything that is already due. -/
def presentTableWord (s : State) (nbits w : Nat) : State :=
  { s with inbox := arrivalOf (requestOfNat (tablePort nbits) w) :: s.inbox }

end Sys2Proof.Machine
end

