-- ==== Sys2Proof/Machine/Step.lean ====
section
/-! DEFINITION. The step, and the placing of an instruction where the step takes its next one. -/

namespace Sys2Proof.Machine

/-- One step: the core serves what is presented next on its ports (R5, R6). -/
def step (s : State) : Host.Outcome State Fault Refusal := serveNext s

/-- The state in which the word of a table row is presented next (log entry 1). The core fetches nothing (R40, R241). -/
def State.withFetchWord (s : State) (nbits w : Nat) : State := presentTableWord s nbits w

end Sys2Proof.Machine
end

