-- ==== Sys2Proof/WellFormed.lean ====
section
/-! DEFINITION. What the spec checks of its terms: the constraints on the parameters (R8), and that of an
operation's operands nothing is checked (R82, R94). -/

namespace Sys2Proof

/-- The constraints of R8 on the parameters: 1 ≤ MAX_PAIRS ≤ 255 and NV_BASE + 8·MAX_PAIRS < 2^16. -/
def Config.Params.wf (p : Config.Params) : Bool :=
  decide (1 ≤ p.maxPairs) && decide (p.maxPairs ≤ 255) && decide (p.nvBase.toNat + 8 * p.maxPairs < 65536)

/-- Well-formed operations. Every field has exactly the width its sub-format gives it, and out-of-range operand
values "are all given a meaning by the operation's own rule and none is illegal" (R94; R82 for EDGE): no operand of
any operation is refused. -/
def Instr.wf (i : Instr) : Bool :=
  match i with
  | .edge _ _ _ => true
  | .isrdy => true
  | .getmsg => true
  | .since _ => true
  | .setrep _ _ => true
  | .addpair _ => true
  | .pairbeg _ _ => true
  | .getpair _ => true
  | .clrpair => true
  | .getstat => true
  | .setstat _ => true
  | .init => true
  | .reserved0 => true
  | .reserved2 => true
  | .reservedD => true
  | .reservedE => true
  | .reservedF => true

end Sys2Proof
end

