-- ==== Sys2Proof/Safety.lean ====
section
/-! DEFINITION. What claims about the machine are stated in: safe steps, the invariants of R43, R74, R137 and R180, and
the relations between two states that R42 and R139 speak of. -/

namespace Sys2Proof.Safety

open Sys2Proof.Machine

/-- The step neither faults nor refuses: every operation is total (R222). -/
def Safe (s : State) : Prop := ∃ t, step s = .next t

/-- The invariants of R43 with the shape of the register file (R37), the constraints on the parameters (R8) and the
canonical form of the store. -/
structure Invariants (s : State) : Prop where
  cfg_wf : s.cfg.wf = true
  pair_length : s.pair.length = s.cfg.maxPairs
  pairCount_le : s.pairCount.toNat ≤ s.cfg.maxPairs
  bitCnt_le : s.bitCnt.toNat ≤ 7
  byteCnt_le : s.byteCnt.toNat ≤ 10
  byteCnt_receiving : s.dstate = .bsf ∨ s.dstate = .gb → s.byteCnt.toNat ≤ 9
  repeatCnt_le : s.repeatCnt.toNat ≤ 256
  nv_wf : s.nv.wf = true

/-- No two adjacent 0 bits among the low `n` bits of a byte (R137). -/
def NoAdjacentZeros (n : Nat) (b : Byte) : Prop :=
  ∀ i : Fin 7, i.val + 1 < n → b.getLsbD i.val = true ∨ b.getLsbD (i.val + 1) = true

/-- R137 as an invariant: the bits already in ACC, the completed bytes of the packet, and the last candidate (or the
zeros of reset) have no two adjacent 0 bits. -/
structure SymbolsOk (s : State) : Prop where
  acc_ok : s.dstate = .gb → NoAdjacentZeros s.bitCnt.toNat s.acc
  buf_ok : ∀ i : Fin 10, i.val < s.byteCnt.toNat → NoAdjacentZeros 8 s.buf[i]
  msg_ok : s.msg = Vector.replicate 10 0 ∨ ∀ i : Fin 10, NoAdjacentZeros 8 s.msg[i]

/-- Entry `k` of the register file. -/
def entry (s : State) (k : Nat) : Entry := s.pair.getD k (Vector.replicate 8 0)

/-- The mirror invariant (R74): the count and the valid entries stand in NV as in the registers. -/
def Mirror (s : State) : Prop :=
  nvByte s 0 = s.pairCount ∧
  ∀ k, k < s.pairCount.toNat → ∀ i : Fin 8, nvByte s (entryOffset k i) = (entry s k)[i]

/-- No two valid entries match each other (R43, R180). -/
def NoDuplicates (s : State) : Prop :=
  ∀ j k, j < k → k < s.pairCount.toNat → entryMatch (entry s j) (entry s k) = false

/-- No two entries that NV holds below a persisted count in range match each other (R43, R180). -/
def NoPersistedDuplicates (s : State) : Prop :=
  (nvByte s 0).toNat ≤ s.cfg.maxPairs →
  ∀ j k, j < k → k < (nvByte s 0).toNat → entryMatch (nvEntry s j) (nvEntry s k) = false

/-- The nine writes of an append, in the order of R68: the bytes of entry `k`, then the count `n`. -/
def appendAccesses (p : Config.Params) (k : Nat) (e : Entry) (n : Byte) : List NvAccess :=
  (entryIndices.map fun (i : Fin 8) => .write (nvAddr p (entryOffset k i)) e[i]) ++ [.write (nvAddr p 0) n]

/-- The reads of a restore of `n` entries, in the order of R68: the count, then the entries. -/
def restoreAccesses (s : State) (n : Nat) : List NvAccess :=
  .read (nvAddr s.cfg 0) (nvByte s 0) :: (List.range n).flatMap fun k =>
    entryIndices.map fun (i : Fin 8) => .read (nvAddr s.cfg (entryOffset k i)) (nvByte s (entryOffset k i))

/-- Two stores hold the same persisted pair store: the same count, and the same bytes of the entries below it (R61). -/
def SamePersisted (p : Config.Params) (m n : Memory) : Prop :=
  m.read (nvAddr p 0).toNat = n.read (nvAddr p 0).toNat ∧
  ∀ k, k < (m.read (nvAddr p 0).toNat).toNat → ∀ i : Fin 8,
    m.read (nvAddr p (entryOffset k i)).toNat = n.read (nvAddr p (entryOffset k i)).toNat

/-- The two states differ at most in the bits of ACC that do not belong to the symbol being received (R139). -/
def AccSim (s t : State) : Prop :=
  t = { s with acc := t.acc } ∧
  (s.dstate = .gb → ∀ i : Fin 8, i.val < s.bitCnt.toNat → s.acc.getLsbD i.val = t.acc.getLsbD i.val)

/-- The two states agree on everything the host can observe directly (R42). -/
structure HostAgree (s t : State) : Prop where
  msgReady : s.msgReady = t.msgReady
  msg : s.msgReady = true → s.msg = t.msg
  lastPktTime : s.lastPktTime = t.lastPktTime
  pairCount : s.pairCount = t.pairCount
  pair : s.pair.take s.pairCount.toNat = t.pair.take t.pairCount.toNat
  statsEn : s.statsEn = t.statsEn
  stat : s.statsEn = true → s.stat = t.stat

/-- Every register holds the value of the reset table (R46). -/
structure RegistersReset (s : State) : Prop where
  enabled : s.enabled = false
  prevTs : s.prevTs = 0
  dstate : s.dstate = .idle
  acc : s.acc = 0
  bitCnt : s.bitCnt = 0
  byteCnt : s.byteCnt = 0
  buf : ∀ i : Fin 10, s.buf[i] = 0
  msg : ∀ i : Fin 10, s.msg[i] = 0
  msgReady : s.msgReady = false
  repeatThresh : s.repeatThresh = 0
  repeatTimeout : s.repeatTimeout = 0
  repeatCnt : s.repeatCnt = 0
  lastPktTime : s.lastPktTime = 0
  pairTimeout : s.pairTimeout = 0
  pairStart : s.pairStart = 0
  pairCount : s.pairCount = 0
  pair_length : s.pair.length = s.cfg.maxPairs
  pair : ∀ e ∈ s.pair, ∀ i : Fin 8, e[i] = 0
  statsEn : s.statsEn = false
  stat : s.stat = s.cfg.statsDefault

/-- A burst of identical candidates `b`: one finalization for each time (R162, R163). -/
def burst (b : Message) (s : State) (times : List Time) : State :=
  times.foldl (fun t ms => finalize ms { t with buf := b }) s

/-- Each candidate of the burst comes inside the repeat window of the one before it (R152). -/
def burstInWindow (b : Message) (s : State) (times : List Time) : Prop :=
  match times with
  | [] => True
  | ms :: rest => units (sub32 ms s.lastPktTime) ≤ s.repeatTimeout.toNat ∧ burstInWindow b (burst b s [ms]) rest

/-- The bits an event appends to the accumulator in state GB (R131, R132). -/
def eventBits (ev : Event) : List Bool :=
  match ev with
  | .s1 => [true]
  | .l1 => [true, false]
  | .n0 | .n1 | .s0 | .l0 | .g0 | .g1 | .x => []

/-- The number that a string of bits spells, the first bit most significant (R63). -/
def bitsValue (bits : List Bool) : Nat := bits.foldl (fun n b => 2 * n + b.toNat) 0

/-- A run of FSM transitions, each with its event, duration and time. -/
def fsmRun (s : State) (evs : List (Event × Time × Time)) : State :=
  evs.foldl (fun t e => fsmStep e.1 e.2.1 e.2.2 t) s

/-- The EDGE operation. -/
def isEdge (i : Instr) : Prop := ∃ level ts ms, i = .edge level ts ms

/-- The ADDPAIR command. -/
def isAddpair (i : Instr) : Prop := ∃ c, i = .addpair c

/-- An EDGE of this level and timestamp forms the event `ev` (R100, R101). -/
abbrev forms (s : State) (level : BitVec 1) (ts : Time) (ev : Event) : Prop :=
  classify level (sub32 ts s.prevTs) = ev

end Sys2Proof.Safety
end

