-- ==== Sys2Proof/Certificates/Slice0/Obligations.lean ====
section
/-! DEFINITION. The statements for the provers. -/

open Sys2Proof Sys2Proof.Machine Sys2Proof.Safety

/-! ### Encoding -/

/-- Decode and encode agree on every operation, with every operand at every value (R80 to R85). -/
def Obligations.DecodeOfEncodeIsTheOperation : Prop :=
  ∀ i : Instr, i.wf = true → decode (encode i) = i

/-- R92: two command words are the same operation exactly when they agree outside the ignored bits, and the canonical
encoding has every ignored bit 0. -/
def Obligations.IgnoredBitsDoNotMatter : Prop :=
  (∀ w v : CmdWord, decode (.host w) = decode (.host v) ↔
    w &&& usedBits (cmdOp w).toNat = v &&& usedBits (cmdOp v).toNat) ∧
  (∀ i w, encode i = .host w → canonicalCmd w = true)

/-- R81, R82: every 65-bit value on the edge port is an EDGE whose operands are level = EW[64], ts = EW[63:32] and
ms = EW[31:0]. -/
def Obligations.EveryEdgeWordIsAnEdge : Prop :=
  ∀ w : EdgeWord, ∃ level ts ms, decode (.edge w) = .edge level ts ms ∧
    level.toNat = w.toNat / 2 ^ 64 ∧ ts.toNat = w.toNat / 2 ^ 32 % 2 ^ 32 ∧ ms.toNat = w.toNat % 2 ^ 32

/-- R84, R85, R95: the numeric value of each operation's canonical word, op·2^96 + ms·2^64 + arg for a command and
level·2^64 + ts·2^32 + ms for an edge; R86: that of a response word. -/
def Obligations.EncodedWordValues : Prop :=
  (∀ level ts ms, ∃ w, encode (.edge level ts ms) = .edge w ∧
    w.toNat = level.toNat * 2 ^ 64 + ts.toNat * 2 ^ 32 + ms.toNat) ∧
  (∀ ms, ∃ w, encode (.since ms) = .host w ∧ w.toNat = 4 * 2 ^ 96 + ms.toNat * 2 ^ 64) ∧
  (∀ threshold timeout, ∃ w, encode (.setrep threshold timeout) = .host w ∧
    w.toNat = 5 * 2 ^ 96 + timeout.toNat * 2 ^ 8 + threshold.toNat) ∧
  (∀ e : Entry, ∃ w, encode (.addpair e) = .host w ∧
    w.toNat = 6 * 2 ^ 96 + e[7].toNat * 2 ^ 56 + e[6].toNat * 2 ^ 48 + e[5].toNat * 2 ^ 40 + e[4].toNat * 2 ^ 32 +
      e[3].toNat * 2 ^ 24 + e[2].toNat * 2 ^ 16 + e[1].toNat * 2 ^ 8 + e[0].toNat) ∧
  (∀ timeout ms, ∃ w, encode (.pairbeg timeout ms) = .host w ∧
    w.toNat = 7 * 2 ^ 96 + ms.toNat * 2 ^ 64 + timeout.toNat) ∧
  (∀ index, ∃ w, encode (.getpair index) = .host w ∧ w.toNat = 8 * 2 ^ 96 + index.toNat) ∧
  (∀ enable, ∃ w, encode (.setstat enable) = .host w ∧ w.toNat = 11 * 2 ^ 96 + enable.toNat) ∧
  (encode .isrdy = .host (BitVec.ofNat 100 (1 * 2 ^ 96)) ∧ encode .getmsg = .host (BitVec.ofNat 100 (3 * 2 ^ 96)) ∧
    encode .clrpair = .host (BitVec.ofNat 100 (9 * 2 ^ 96)) ∧ encode .getstat = .host (BitVec.ofNat 100 (10 * 2 ^ 96)) ∧
    encode .init = .host (BitVec.ofNat 100 (12 * 2 ^ 96))) ∧
  (∀ (ok : Bool) (count : BitVec 8) (data : BitVec 144),
    (respWord ok count data).toNat = ok.toNat * 2 ^ 152 + count.toNat * 2 ^ 144 + data.toNat)

/-- A few words written out from the spec's encodings decode to the operations they stand for (V11, V12). -/
def Obligations.SpecWordsDecode : Prop :=
  decodeTableWord 72 0x100002710000003e8 = some (.edge 1 10000 1000) ∧
  decodeTableWord 104 0x1000000000000000000000000 = some .isrdy ∧
  decodeTableWord 104 0x4000004e20000000000000000 = some (.since 1250) ∧
  decodeTableWord 104 0x5deadbeef00000000abcd1403 = some (.setrep 3 20) ∧
  decodeTableWord 104 0x600000000ee7bdbbbed6feef6 =
    some (.addpair #v[0xF6, 0xEE, 0x6F, 0xED, 0xBB, 0xDB, 0x7B, 0xEE]) ∧
  decodeTableWord 104 0x7000013880000000000000032 = some (.pairbeg 50 5000) ∧
  decodeTableWord 104 0x2ffffffffffffffffffffffff = some .reserved2

/-! ### The step, reset and the ports -/

/-- With the arrivals of log entry 1: when the word presented next decodes to `i`, the step is `exec i`, on the state with the arrival taken from the
inbox and the outputs of the operation before cleared. Every word decodes to a well-formed operation. -/
def Obligations.StepRunsThePresentedOperation : Prop :=
  ∀ (s : State) (r : Request) (rest : List Arrival), s.inbox = arrivalOf r :: rest →
    (decode r).wf = true ∧
    step s = exec (decode r) { s with inbox := rest, resp := none, nvPort := [] }

/-- R7, with the arrivals of log entries 1 and 5: an edge and a command presented together are two steps, the edge first. -/
def Obligations.EdgeIsPerformedBeforeCommand : Prop :=
  ∀ (s : State) (w : EdgeWord) (v : CmdWord) (rest : List Arrival),
    s.inbox = { edge := some w, cmd := some v, reset := .released } :: rest →
    ∃ t, step s = .next t ∧
      exec (decodeEdge w) { s with inbox := arrivalOf (.host v) :: rest, resp := none, nvPort := [] } = .next t ∧
      step t = exec (decodeCmd v) { t with inbox := rest, resp := none, nvPort := [] }

/-- R5, R6, with the arrivals of log entry 1: with nothing presented a step changes nothing; an arrival without a word
changes no register and no byte of NV. R240, with log entry 13: the words presented while reset is asserted are lost,
and that arrival is one reset step. -/
def Obligations.ArrivalsThatPerformNothing : Prop :=
  (∀ s : State, s.inbox = [] → step s = .next s) ∧
  (∀ (s : State) (rest : List Arrival), s.inbox = { edge := none, cmd := none, reset := .released } :: rest →
    step s = .next { s with inbox := rest, resp := none, nvPort := [] }) ∧
  (∀ (s : State) (a : Arrival) (rest : List Arrival), s.inbox = a :: rest → a.reset = .asserted →
    step s = .next (resetCore { s with inbox := rest }))

/-- R222: every operation is total: it completes from every state with every operand value, and no step faults or
refuses. -/
def Obligations.EveryOperationIsTotal : Prop :=
  (∀ (i : Instr) (s : State), ∃ t, exec i s = .next t) ∧ ∀ s : State, Safe s

/-- A word of spec/opcode_table.json that decodes is run by the very next step (log entries 1 and 7). -/
def Obligations.PlacedWordRunsNext : Prop :=
  ∀ (s : State) (nbits w : Nat) (i : Instr), decodeTableWord nbits w = some i →
    step (s.withFetchWord nbits w) = exec i { s with resp := none, nvPort := [] }

/-- R46: every register in the state after reset, and after a reset from any state, which changes neither NV nor the
parameters. Before the first operation NV holds NV_INIT at every address (R76). -/
def Obligations.ResetTable : Prop :=
  RegistersReset State.reset ∧
  (∀ a : NvAddr, State.reset.nv.read a.toNat = Config.nvInit a) ∧
  ∀ s : State, RegistersReset (resetCore s) ∧ (resetCore s).nv = s.nv ∧ (resetCore s).cfg = s.cfg

/-- R66, R255 (an inference the spec marks as its own; log entry 6), while the mirror of R74 holds, which leaves out
operations before INIT (R243): when reset or power loss cuts an operation short after any number of its NV accesses, NV
holds either the pair store it held before or the one the whole operation leaves, and every register is reset. -/
def Obligations.TornOperationLeavesOldOrNewStore : Prop :=
  ∀ (s : State) (r : Request) (n : Nat) (rest : List Arrival), Invariants s → Mirror s →
    s.inbox = { arrivalOf r with reset := .during n } :: rest →
    ∃ t u, step s = .next t ∧ exec (decode r) { s with inbox := rest, resp := none, nvPort := [] } = .next u ∧
      RegistersReset t ∧ (SamePersisted s.cfg s.nv t.nv ∨ SamePersisted s.cfg u.nv t.nv)

/-! ### Arithmetic -/

/-- R13, R15, R16, R17, R196: the subtraction, the sticking counter, the two shifts and the average, as numbers; the
average never reaches 2^16 for the samples and averages that occur, and does not pass 16 times a constant sample. -/
def Obligations.PrimitivesAsNumbers : Prop :=
  (∀ a b : Time, (sub32 a b).toNat = (2 ^ 32 + a.toNat - b.toNat) % 2 ^ 32) ∧
  (∀ c : BitVec 9, (satinc c).toNat = min (c.toNat + 1) 256) ∧
  (∀ a : Byte, (shl1 a).toNat = (2 * a.toNat + 1) % 256) ∧
  (∀ a : Byte, (shl2 a).toNat = (4 * a.toNat + 2) % 256) ∧
  (∀ a x : BitVec 16, (ema a x).toNat = (a.toNat - a.toNat / 16 + x.toNat) % 2 ^ 16) ∧
  (∀ a x : BitVec 16, a.toNat ≤ 32000 → x.toNat ≤ 1999 → a.toNat - a.toNat / 16 + x.toNat < 2 ^ 16) ∧
  (∀ a x : BitVec 16, x.toNat ≤ 1999 → a.toNat ≤ 16 * x.toNat → (ema a x).toNat ≤ 16 * x.toNat)

/-- R14: the whole 100 ms units of an elapsed time, and that a window of `t` units is exceeded when there are more than
`t` of them, that is from 100·(t+1) milliseconds on. -/
def Obligations.WindowExceededFrom : Prop :=
  ∀ (e : Time) (t : BitVec 8), units e = e.toNat / 100 ∧ units e ≤ 42949672 ∧
    (windowExceeded e t = true ↔ units e > t.toNat) ∧ (windowExceeded e t = true ↔ e.toNat ≥ 100 * (t.toNat + 1))

/-! ### The classifier and the front end -/

/-- R101: the event code as the spec computes it. -/
def Obligations.ClassifierCodes : Prop :=
  ∀ (level : BitVec 1) (dur : Time), (classify level dur).code.toNat =
    if dur.toNat < 120 then level.toNat
    else if dur.toNat < 500 then level.toNat + 2
    else if dur.toNat < 2000 then level.toNat + 4
    else if dur.toNat > 5000 then level.toNat + 6
    else 8

/-- R102, an inference the spec marks as its own: the comparator tree, four comparisons and a priority encoder, gives
the event code. -/
def Obligations.ComparatorTreeGivesTheCode : Prop :=
  ∀ (level : BitVec 1) (dur : Time) (bucket : BitVec 2),
    (bucket = if dur.toNat < 120 then 0 else if dur.toNat < 500 then 1 else if dur.toNat < 2000 then 2 else 3) →
    (classify level dur).code =
      if dur.toNat < 2000 ∨ dur.toNat > 5000 then (0 : BitVec 1) ++ bucket ++ level else 8

/-- R107: EDGE with ENABLED = 0 has no effect at all. -/
def Obligations.DisabledEdgeHasNoEffect : Prop :=
  ∀ (s : State) (level : BitVec 1) (ts ms : Time), s.enabled = false → exec (.edge level ts ms) s = .next s

/-- R100: an enabled EDGE completes from every state, makes PREV_TS its timestamp whatever the event, and does the
one FSM transition of the event its duration gives. -/
def Obligations.EnabledEdgeUpdatesPrevTs : Prop :=
  ∀ (s : State) (level : BitVec 1) (ts ms : Time), s.enabled = true →
    ∃ t, exec (.edge level ts ms) s = .next t ∧ t.prevTs = ts ∧ t.enabled = true ∧ t.resp = s.resp ∧
      t = fsmStep (classify level (sub32 ts s.prevTs)) (sub32 ts s.prevTs) ms { s with prevTs := ts }

/-! ### The decode FSM -/

/-- R121, R122: an enabled EDGE in Idle. -/
def Obligations.IdleTransitions : Prop :=
  ∀ (s : State) (level : BitVec 1) (ts ms : Time), s.enabled = true → s.dstate = .idle →
    (forms s level ts .g1 → exec (.edge level ts ms) s = .next { s with prevTs := ts, dstate := .msf }) ∧
    (¬ forms s level ts .g1 → exec (.edge level ts ms) s = .next { s with prevTs := ts })

/-- R123, R124, R125: an enabled EDGE in MSF. -/
def Obligations.MessageStartTransitions : Prop :=
  ∀ (s : State) (level : BitVec 1) (ts ms : Time), s.enabled = true → s.dstate = .msf →
    (forms s level ts .s0 → exec (.edge level ts ms) s = .next { s with prevTs := ts }) ∧
    (forms s level ts .s1 →
      exec (.edge level ts ms) s = .next { s with prevTs := ts, byteCnt := 0, bitCnt := 0, dstate := .bsf }) ∧
    (¬ forms s level ts .s0 → ¬ forms s level ts .s1 →
      exec (.edge level ts ms) s = .next { s with prevTs := ts, dstate := .idle })

/-- R126, R127, R128, R129: an enabled EDGE in BSF. -/
def Obligations.ByteStartTransitions : Prop :=
  ∀ (s : State) (level : BitVec 1) (ts ms : Time), s.enabled = true → s.dstate = .bsf →
    (forms s level ts .s0 → exec (.edge level ts ms) s = .next { s with prevTs := ts }) ∧
    (forms s level ts .s1 → exec (.edge level ts ms) s = .next { s with prevTs := ts, bitCnt := 0, dstate := .gb }) ∧
    (forms s level ts .l1 →
      exec (.edge level ts ms) s = .next { s with prevTs := ts, bitCnt := 1, acc := 0, dstate := .gb }) ∧
    (¬ forms s level ts .s0 → ¬ forms s level ts .s1 → ¬ forms s level ts .l1 →
      exec (.edge level ts ms) s = .next { s with prevTs := ts, dstate := .idle })

/-- R130 (that its class is HIGH is an inference the spec marks as its own, conflict C5), R133: an enabled EDGE in GB that
appends nothing: event 2 samples HIGH and changes nothing else, any event other than 2, 3 and 5 resynchronises. -/
def Obligations.GettingByteWithoutAppend : Prop :=
  ∀ (s : State) (level : BitVec 1) (ts ms : Time), s.enabled = true → s.dstate = .gb →
    (forms s level ts .s0 →
      exec (.edge level ts ms) s = .next (statsUpdate .high (sub32 ts s.prevTs) { s with prevTs := ts })) ∧
    (¬ forms s level ts .s0 → ¬ forms s level ts .s1 → ¬ forms s level ts .l1 →
      exec (.edge level ts ms) s = .next { s with prevTs := ts, dstate := .idle })

/-- R131, R132, R134: an append that leaves fewer than eight bits stays in GB. -/
def Obligations.AppendStaysInGettingByte : Prop :=
  ∀ (s : State) (level : BitVec 1) (ts ms : Time), s.enabled = true → s.dstate = .gb →
    (forms s level ts .s1 → s.bitCnt.toNat ≤ 6 →
      exec (.edge level ts ms) s = .next (statsUpdate .low1 (sub32 ts s.prevTs)
        { s with prevTs := ts, acc := shl1 s.acc, bitCnt := s.bitCnt + 1 })) ∧
    (forms s level ts .l1 → s.bitCnt.toNat ≤ 5 →
      exec (.edge level ts ms) s = .next (statsUpdate .low0 (sub32 ts s.prevTs)
        { s with prevTs := ts, acc := shl2 s.acc, bitCnt := s.bitCnt + 2 }))

/-- R134, R138: an append that reaches eight or nine bits before the tenth byte stores the byte and awaits the next
byte's start. -/
def Obligations.AppendCompletesAByte : Prop :=
  ∀ (s : State) (level : BitVec 1) (ts ms : Time) (h : s.byteCnt.toNat ≤ 8), s.enabled = true → s.dstate = .gb →
    (forms s level ts .s1 → s.bitCnt.toNat = 7 →
      exec (.edge level ts ms) s = .next (statsUpdate .low1 (sub32 ts s.prevTs)
        { s with prevTs := ts, acc := shl1 s.acc, bitCnt := 0, buf := s.buf.set s.byteCnt.toNat (shl1 s.acc),
                 byteCnt := s.byteCnt + 1, dstate := .bsf })) ∧
    (forms s level ts .l1 → s.bitCnt.toNat = 6 ∨ s.bitCnt.toNat = 7 →
      exec (.edge level ts ms) s = .next (statsUpdate .low0 (sub32 ts s.prevTs)
        { s with prevTs := ts, acc := shl2 s.acc, bitCnt := 0, buf := s.buf.set s.byteCnt.toNat (shl2 s.acc),
                 byteCnt := s.byteCnt + 1, dstate := .bsf }))

/-- R135: the append that completes the tenth byte finalizes with the `ms` of the same EDGE, and DSTATE becomes Idle. -/
def Obligations.TenthByteFinalizes : Prop :=
  ∀ (s : State) (level : BitVec 1) (ts ms : Time), s.enabled = true → s.dstate = .gb → s.byteCnt.toNat = 9 →
    (forms s level ts .s1 → s.bitCnt.toNat = 7 →
      exec (.edge level ts ms) s = .next { finalize ms (statsUpdate .low1 (sub32 ts s.prevTs)
        { s with prevTs := ts, acc := shl1 s.acc, bitCnt := 0, buf := s.buf.set 9 (shl1 s.acc), byteCnt := 10 })
        with dstate := .idle }) ∧
    (forms s level ts .l1 → s.bitCnt.toNat = 6 ∨ s.bitCnt.toNat = 7 →
      exec (.edge level ts ms) s = .next { finalize ms (statsUpdate .low0 (sub32 ts s.prevTs)
        { s with prevTs := ts, acc := shl2 s.acc, bitCnt := 0, buf := s.buf.set 9 (shl2 s.acc), byteCnt := 10 })
        with dstate := .idle })

/-- R136, an inference the spec marks as its own: the whole transition table. -/
def Obligations.TransitionTable : Prop :=
  ∀ (s : State) (level : BitVec 1) (ts ms : Time), Invariants s → s.enabled = true →
    ∃ t, exec (.edge level ts ms) s = .next t ∧ t.dstate =
      match s.dstate, classify level (sub32 ts s.prevTs) with
      | .idle, .g1 => .msf
      | .msf, .s0 => .msf
      | .msf, .s1 => .bsf
      | .bsf, .s0 => .bsf
      | .bsf, .s1 => .gb
      | .bsf, .l1 => .gb
      | .gb, .s0 => .gb
      | .gb, .s1 => if s.bitCnt.toNat + 1 < 8 then .gb else if s.byteCnt.toNat + 1 = 10 then .idle else .bsf
      | .gb, .l1 => if s.bitCnt.toNat + 2 < 8 then .gb else if s.byteCnt.toNat + 1 = 10 then .idle else .bsf
      | _, _ => .idle

/-- R63, R131, R132: the appended bits stand in ACC in the order received, the first most significant, whatever the
durations and times, as long as the byte is not complete. -/
def Obligations.SymbolBitsInOrder : Prop :=
  ∀ (s : State) (evs : List (Event × Time × Time)), s.dstate = .gb →
    (∀ e ∈ evs, e.1 = .s1 ∨ e.1 = .l1) →
    s.bitCnt.toNat + (evs.flatMap fun e => eventBits e.1).length ≤ 7 →
    (fsmRun s evs).dstate = .gb ∧
    (fsmRun s evs).bitCnt.toNat = s.bitCnt.toNat + (evs.flatMap fun e => eventBits e.1).length ∧
    (fsmRun s evs).acc.toNat =
      (s.acc.toNat * 2 ^ (evs.flatMap fun e => eventBits e.1).length +
        bitsValue (evs.flatMap fun e => eventBits e.1)) % 256 ∧
    (fsmRun s evs).buf = s.buf ∧ (fsmRun s evs).byteCnt = s.byteCnt

/-- R139, an inference the spec marks as its own: what ACC held before a byte started never reaches BUF: two states that differ only in the bits of ACC
outside the symbol being received go on differing only there. -/
def Obligations.StaleAccumulatorIsUnobservable : Prop :=
  ∀ (i : Instr) (s t s1 t1 : State), AccSim s t → exec i s = .next s1 → exec i t = .next t1 → AccSim s1 t1

/-! ### Finalization -/

/-- R152, R153, R154: the repeat count, LAST_PKT_TIME and MSG after every finalization. -/
def Obligations.RepeatCountRule : Prop :=
  ∀ (ms : Time) (s : State),
    (finalize ms s).repeatCnt =
      (if s.repeatThresh.toNat = 0 then 0
       else if (sub32 ms s.lastPktTime).toNat / 100 > s.repeatTimeout.toNat then 1
       else if ∀ i : Fin 10, s.buf[i] = s.msg[i] then BitVec.ofNat 9 (min (s.repeatCnt.toNat + 1) 256)
       else 1) ∧
    (finalize ms s).lastPktTime = ms ∧ (finalize ms s).msg = s.buf

/-- R155: a candidate whose threshold is neither 0 nor the new count is ineligible: nothing but the three registers of
steps 2 to 4 is written. -/
def Obligations.IneligibleCandidateStops : Prop :=
  ∀ (ms : Time) (s : State) (cnt : BitVec 9), cnt = (finalize ms s).repeatCnt →
    s.repeatThresh ≠ 0 → s.repeatThresh.toNat ≠ cnt.toNat →
    finalize ms s = { s with repeatCnt := cnt, lastPktTime := ms, msg := s.buf }

/-- R156, R157: an eligible candidate within the window of an active session is captured, the session ends, and the
candidate does not become visible. -/
def Obligations.CaptureWithinWindow : Prop :=
  ∀ (ms : Time) (s : State) (cnt : BitVec 9), cnt = (finalize ms s).repeatCnt →
    s.repeatThresh = 0 ∨ s.repeatThresh.toNat = cnt.toNat →
    s.pairTimeout ≠ 0 → (sub32 ms s.pairStart).toNat / 100 ≤ s.pairTimeout.toNat →
    finalize ms s =
      addEntry { s with repeatCnt := cnt, lastPktTime := ms, msg := s.buf, pairTimeout := 0 } (pairBytes s.buf) ∧
    (finalize ms s).msgReady = s.msgReady ∧ (finalize ms s).pairTimeout = 0

/-- R158, R159: an eligible candidate outside a session, or after the window of one, which then ends, sets MSG_READY
if it is a member and otherwise leaves it. -/
def Obligations.MembershipPublishes : Prop :=
  ∀ (ms : Time) (s : State) (cnt : BitVec 9), cnt = (finalize ms s).repeatCnt →
    s.repeatThresh = 0 ∨ s.repeatThresh.toNat = cnt.toNat →
    s.pairTimeout = 0 ∨ (sub32 ms s.pairStart).toNat / 100 > s.pairTimeout.toNat →
    finalize ms s =
      { s with repeatCnt := cnt, lastPktTime := ms, msg := s.buf, pairTimeout := 0,
               msgReady := s.msgReady || member s (pairBytes s.buf) }

/-- R72, R29: only an EDGE sets MSG_READY, and when it does MSG is the completed ten-byte buffer. -/
def Obligations.ReadyFlagMeansWholeMessage : Prop :=
  ∀ (i : Instr) (s t : State), exec i s = .next t → s.msgReady = false → t.msgReady = true →
    isEdge i ∧ s.dstate = .gb ∧ t.dstate = .idle ∧ t.byteCnt = 10 ∧ t.msg = t.buf ∧ t.nv = s.nv

/-- R163: in a burst of identical candidates inside the window, the count after `n` of them is the count before plus
`n`, sticking at 256, and the candidate is eligible exactly when that sum is the threshold: once however long the
burst. -/
def Obligations.BurstIsEligibleOnce : Prop :=
  ∀ (b : Message) (s : State) (times : List Time), s.repeatThresh ≠ 0 → s.msg = b → s.repeatCnt.toNat ≤ 256 →
    burstInWindow b s times →
    (burst b s times).repeatCnt.toNat = min (s.repeatCnt.toNat + times.length) 256 ∧
    ((burst b s times).repeatThresh.toNat = (burst b s times).repeatCnt.toNat ↔
      s.repeatCnt.toNat + times.length = s.repeatThresh.toNat)

/-! ### The pair store -/

/-- R170, R171, R172: the don't-care byte is compared on neither side, the CAM looks at the valid entries, and the
empty store accepts every candidate. -/
def Obligations.MembershipTest : Prop :=
  (∀ e f : Entry, entryMatch e f = true ↔ ∀ i : Fin 8, i ≠ 1 → e[i] = f[i]) ∧
  (∀ (s : State) (e : Entry), s.pairCount.toNat ≤ s.pair.length →
    (matchAny s e = true ↔ ∃ k, k < s.pairCount.toNat ∧ entryMatch (entry s k) e = true)) ∧
  (∀ (s : State) (e : Entry), member s e = true ↔ s.pairCount = 0 ∨ matchAny s e = true)

/-- R205, R173: ADDPAIR of an entry that no valid entry matches, with capacity left: the register entry, the nine NV
writes in order, the count, the response, and nothing else. ADDPAIR of a duplicate, or into a full store, writes no
register and no NV byte; ok is 1 and the count is unchanged. -/
def Obligations.AddpairAppendsOrDoesNothing : Prop :=
  (∀ (s : State) (e : Entry) (k : Nat), Invariants s → k = s.pairCount.toNat → matchAny s e = false →
    k < s.cfg.maxPairs →
    ∃ t, exec (.addpair e) s = .next t ∧
      t = { s with pair := s.pair.set k e, pairCount := s.pairCount + 1, nv := t.nv,
                   nvPort := s.nvPort ++ appendAccesses s.cfg k e (s.pairCount + 1),
                   resp := some (respWord true (s.pairCount + 1) 0) } ∧
      (s.pairCount + 1).toNat = k + 1 ∧ entry t k = e ∧
      (∀ i : Fin 8, nvByte t (entryOffset k i) = e[i]) ∧ nvByte t 0 = s.pairCount + 1 ∧
      (∀ a : NvAddr, a ≠ nvAddr s.cfg 0 → (∀ i : Fin 8, a ≠ nvAddr s.cfg (entryOffset k i)) →
        t.nv.read a.toNat = s.nv.read a.toNat)) ∧
  (∀ (s : State) (e : Entry), matchAny s e = true ∨ s.cfg.maxPairs ≤ s.pairCount.toNat →
    exec (.addpair e) s = .next { s with resp := some (respWord true s.pairCount 0) })

/-- R175, R200: INIT with a persisted count in range restores that many entries from NV, enables EDGE, reads NV in
order and writes nothing else; with a persisted count above MAX_PAIRS it empties the store, here and in NV. -/
def Obligations.InitRestoresOrEmptiesTheStore : Prop :=
  (∀ (s : State), Invariants s → (nvByte s 0).toNat ≤ s.cfg.maxPairs →
    ∃ t, exec .init s = .next t ∧
      t = { s with enabled := true, pairCount := nvByte s 0, pair := t.pair,
                   nvPort := s.nvPort ++ restoreAccesses s (nvByte s 0).toNat,
                   resp := some (respWord true (nvByte s 0) 0) } ∧
      t.pair.length = s.pair.length ∧
      (∀ k, k < (nvByte s 0).toNat → ∀ i : Fin 8, (entry t k)[i] = nvByte s (entryOffset k i)) ∧
      (∀ k, (nvByte s 0).toNat ≤ k → entry t k = entry s k)) ∧
  (∀ (s : State), s.nv.wf = true → (nvByte s 0).toNat > s.cfg.maxPairs →
    ∃ t, exec .init s = .next t ∧
      t = { s with enabled := true, pairCount := 0, nv := t.nv,
                   nvPort := s.nvPort ++ [.read (nvAddr s.cfg 0) (nvByte s 0), .write (nvAddr s.cfg 0) 0],
                   resp := some (respWord true 0 0) } ∧
      nvByte t 0 = 0 ∧ ∀ a : NvAddr, a ≠ nvAddr s.cfg 0 → t.nv.read a.toNat = s.nv.read a.toNat)

/-- R208, R176: CLRPAIR zeroes the count, here and in NV, and leaves the entries; every candidate is a member then. -/
def Obligations.ClrpairZeroesTheCount : Prop :=
  ∀ (s : State), s.nv.wf = true →
    ∃ t, exec .clrpair s = .next t ∧
      t = { s with pairCount := 0, nv := t.nv, nvPort := s.nvPort ++ [.write (nvAddr s.cfg 0) 0],
                   resp := some (respWord true 0 0) } ∧
      nvByte t 0 = 0 ∧ (∀ a : NvAddr, a ≠ nvAddr s.cfg 0 → t.nv.read a.toNat = s.nv.read a.toNat) ∧
      ∀ e : Entry, member t e = true

/-- R207, R177, R87: GETPAIR returns the entry at a valid index, byte `i` in bits 8i+7:8i, and otherwise failure with
zero data; the count in both cases. -/
def Obligations.GetpairReadsAnEntry : Prop :=
  ∀ (s : State) (index : BitVec 8),
    (index.toNat < s.pairCount.toNat → ∃ data : BitVec 144,
      exec (.getpair index) s = .next { s with resp := some (respWord true s.pairCount data) } ∧
      (∀ i : Fin 8, data.extractLsb' (8 * i.val) 8 = (entry s index.toNat)[i]) ∧ data.toNat < 2 ^ 64) ∧
    (s.pairCount.toNat ≤ index.toNat →
      exec (.getpair index) s = .next { s with resp := some (respWord false s.pairCount 0) })

/-- R179, an inference the spec marks as its own: the count stays, grows by 1, drops to 0 (CLRPAIR, INIT) or is reloaded
(INIT); and outside INIT no valid entry moves or changes. -/
def Obligations.EntriesAreNeverMoved : Prop :=
  ∀ (i : Instr) (s t : State), exec i s = .next t →
    (t.pairCount = s.pairCount ∨ t.pairCount = s.pairCount + 1 ∨ (i = .clrpair ∧ t.pairCount = 0) ∨
      (i = .init ∧ (t.pairCount = 0 ∨ t.pairCount = nvByte s 0))) ∧
    (i ≠ .init → ∀ k, k < s.pairCount.toNat → entry t k = entry s k)

/-- R68, R70: the accesses of each operation to NV, in order, and that NV is changed by them alone: INIT reads the
count, and then writes a zero or reads the entries; an appending ADDPAIR, and an EDGE whose capture appends, make the
nine writes; CLRPAIR writes a zero; no other operation accesses NV. -/
def Obligations.NvAccessesOfEachOperation : Prop :=
  ∀ (i : Instr) (s t : State), exec i s = .next t →
    ∃ acc : List NvAccess, t.nvPort = s.nvPort ++ acc ∧ t.nv = acc.foldl applyAccess s.nv ∧
      match i with
      | .init =>
        ((nvByte s 0).toNat > s.cfg.maxPairs ∧
          acc = [.read (nvAddr s.cfg 0) (nvByte s 0), .write (nvAddr s.cfg 0) 0]) ∨
        ((nvByte s 0).toNat ≤ s.cfg.maxPairs ∧ acc = restoreAccesses s (nvByte s 0).toNat)
      | .addpair e =>
        (acc = [] ∧ t.pairCount = s.pairCount) ∨
        (acc = appendAccesses s.cfg s.pairCount.toNat e (s.pairCount + 1) ∧ t.pairCount = s.pairCount + 1)
      | .edge _ _ _ =>
        (acc = [] ∧ t.pairCount = s.pairCount) ∨
        (acc = appendAccesses s.cfg s.pairCount.toNat (pairBytes t.msg) (s.pairCount + 1) ∧
          t.pairCount = s.pairCount + 1 ∧ s.dstate = .gb ∧ t.dstate = .idle ∧ pairingActive s = true)
      | .clrpair => acc = [.write (nvAddr s.cfg 0) 0]
      | _ => acc = []

/-- R74, an inference the spec marks as its own: INIT establishes the mirror of the pair store in NV, and every operation keeps it. -/
def Obligations.MirrorIsEstablishedAndKept : Prop :=
  (∀ s t : State, Invariants s → exec .init s = .next t → Mirror t) ∧
  (∀ (i : Instr) (s t : State), Invariants s → Mirror s → exec i s = .next t → Mirror t)

/-- R200: a second INIT while the mirror holds changes nothing but the ports. -/
def Obligations.SecondInitReloadsTheSame : Prop :=
  ∀ s : State, Invariants s → Mirror s → ∃ t, exec .init s = .next t ∧
    t = { s with enabled := true, nvPort := t.nvPort, resp := some (respWord true s.pairCount 0) }

/-- R180, R43, inferences the spec marks as its own: no operation but INIT makes two valid entries match. INIT leaves no
two valid entries that match, whatever the registers held before, provided no two that NV holds do (the first INIT after
reset among them); in particular while the mirror holds and no two valid entries match. -/
def Obligations.NoDuplicatesAreKept : Prop :=
  (∀ (i : Instr) (s t : State), i ≠ .init → Invariants s → NoDuplicates s → exec i s = .next t → NoDuplicates t) ∧
  (∀ s t : State, Invariants s → NoPersistedDuplicates s → exec .init s = .next t → NoDuplicates t) ∧
  (∀ s t : State, Invariants s → Mirror s → NoDuplicates s → exec .init s = .next t → NoDuplicates t)

/-! ### Statistics -/

/-- R191, R194, R195, and the update of R196 with the sample of R193: one sample of a class: nothing while disabled, else
max, min and average of that class and of no other, and no other register. R192: where the max, min and average of each
class stand in STAT. -/
def Obligations.StatisticsSample : Prop :=
  (∀ (c : StatClass) (dur : Time) (s t : State), t = statsUpdate c dur s →
    (s.statsEn = false → t = s) ∧
    (s.statsEn = true →
      t = { s with stat := t.stat } ∧
      t.stat[c.maxIdx].toNat = max s.stat[c.maxIdx].toNat (dur.toNat % 2 ^ 16) ∧
      t.stat[c.minIdx].toNat = min s.stat[c.minIdx].toNat (dur.toNat % 2 ^ 16) ∧
      t.stat[c.avgIdx] = ema s.stat[c.avgIdx] (BitVec.ofNat 16 dur.toNat) ∧
      ∀ j : Fin 9, j ≠ c.maxIdx → j ≠ c.minIdx → j ≠ c.avgIdx → t.stat[j] = s.stat[j])) ∧
  (StatClass.high.maxIdx = 0 ∧ StatClass.high.minIdx = 1 ∧ StatClass.high.avgIdx = 2) ∧
  (StatClass.low1.maxIdx = 3 ∧ StatClass.low1.minIdx = 4 ∧ StatClass.low1.avgIdx = 5) ∧
  (StatClass.low0.maxIdx = 6 ∧ StatClass.low0.minIdx = 7 ∧ StatClass.low0.avgIdx = 8)

/-- R190: STAT is sampled by an EDGE in GB with event 2, 3 or 5 (classes HIGH, LOW1, LOW0), and no other operation
but SETSTAT 0 changes it. -/
def Obligations.OnlyByteReceptionIsSampled : Prop :=
  (∀ (s t : State) (level : BitVec 1) (ts ms : Time), s.enabled = true → exec (.edge level ts ms) s = .next t →
    t.stat =
      if s.dstate = .gb ∧ forms s level ts .s0 then (statsUpdate .high (sub32 ts s.prevTs) s).stat
      else if s.dstate = .gb ∧ forms s level ts .s1 then (statsUpdate .low1 (sub32 ts s.prevTs) s).stat
      else if s.dstate = .gb ∧ forms s level ts .l1 then (statsUpdate .low0 (sub32 ts s.prevTs) s).stat
      else s.stat) ∧
  (∀ (i : Instr) (s t : State), ¬ isEdge i → i ≠ .setstat 0 → exec i s = .next t → t.stat = s.stat)

/-- R210, R197, R198: SETSTAT. -/
def Obligations.SetstatSwitchesCollection : Prop :=
  ∀ s : State,
    exec (.setstat 1) s = .next { s with statsEn := true, resp := some (respWord true 0 0) } ∧
    exec (.setstat 0) s =
      .next { s with statsEn := false, stat := s.cfg.statsDefault, resp := some (respWord true 0 0) }

/-- R209, R87: GETSTAT returns counter `j` in bits 16j+15:16j while enabled, and failure while not. -/
def Obligations.GetstatReadsTheCounters : Prop :=
  ∀ s : State,
    (s.statsEn = true → ∃ data : BitVec 144,
      exec .getstat s = .next { s with resp := some (respWord true 0 data) } ∧
      ∀ j : Fin 9, data.extractLsb' (16 * j.val) 16 = s.stat[j]) ∧
    (s.statsEn = false → exec .getstat s = .next { s with resp := some (respWord false 0 0) })

/-! ### The other host commands -/

/-- R201: ISRDY returns MSG_READY and changes nothing. -/
def Obligations.IsrdyReturnsTheFlag : Prop :=
  ∀ s : State, exec .isrdy s = .next { s with resp := some (respWord s.msgReady 0 0) }

/-- R202, R87: GETMSG returns the ten bytes, byte `i` in bits 8i+7:8i, and clears MSG_READY; when not ready it fails. -/
def Obligations.GetmsgReturnsAndClears : Prop :=
  ∀ s : State,
    (s.msgReady = true → ∃ data : BitVec 144,
      exec .getmsg s = .next { s with msgReady := false, resp := some (respWord true 0 data) } ∧
      (∀ i : Fin 10, data.extractLsb' (8 * i.val) 8 = s.msg[i]) ∧ data.toNat < 2 ^ 80) ∧
    (s.msgReady = false → exec .getmsg s = .next { s with resp := some (respWord false 0 0) })

/-- R203: SINCE returns the time since the last candidate, modulo 2^32, in data bits 31:0. -/
def Obligations.SinceReturnsElapsedTime : Prop :=
  ∀ (s : State) (ms : Time), ∃ data : BitVec 144,
    exec (.since ms) s = .next { s with resp := some (respWord true 0 data) } ∧
    data.toNat = (2 ^ 32 + ms.toNat - s.lastPktTime.toNat) % 2 ^ 32

/-- R204: SETREP writes the two configuration registers and nothing else. -/
def Obligations.SetrepConfiguresTheFilter : Prop :=
  ∀ (s : State) (threshold timeout : BitVec 8), exec (.setrep threshold timeout) s =
    .next { s with repeatThresh := threshold, repeatTimeout := timeout, resp := some (respWord true 0 0) }

/-- R206: PAIRBEG writes the two session registers and nothing else; the session is active afterwards iff the timeout
is not 0. -/
def Obligations.PairbegStartsASession : Prop :=
  ∀ (s : State) (timeout : BitVec 8) (ms : Time), ∃ t,
    exec (.pairbeg timeout ms) s = .next t ∧
    t = { s with pairTimeout := timeout, pairStart := ms, resp := some (respWord true 0 0) } ∧
    (pairingActive t = true ↔ timeout ≠ 0)

/-- R211, R91: RESERVED_0, RESERVED_2, RESERVED_D, RESERVED_E and RESERVED_F, that is every command word whose code is
0x0, 0x2, 0xD, 0xE or 0xF: no state change, no NV access, and the response is all zero. -/
def Obligations.ReservedCodesDoNothing : Prop :=
  (∀ (s : State) (i : Instr),
    i = .reserved0 ∨ i = .reserved2 ∨ i = .reservedD ∨ i = .reservedE ∨ i = .reservedF →
    exec i s = .next { s with resp := some 0 }) ∧
  (∀ (s : State) (w : CmdWord),
    cmdOp w = 0x0 ∨ cmdOp w = 0x2 ∨ cmdOp w = 0xD ∨ cmdOp w = 0xE ∨ cmdOp w = 0xF →
    exec (decode (.host w)) s = .next { s with resp := some 0 })

/-! ### Whole-machine rules -/

/-- R227: what an EDGE may write, and how. -/
def Obligations.EdgePortWritesOnly : Prop :=
  ∀ (s t : State) (level : BitVec 1) (ts ms : Time), exec (.edge level ts ms) s = .next t →
    t = { s with prevTs := t.prevTs, dstate := t.dstate, acc := t.acc, bitCnt := t.bitCnt, byteCnt := t.byteCnt,
                 buf := t.buf, msg := t.msg, msgReady := t.msgReady, repeatCnt := t.repeatCnt,
                 lastPktTime := t.lastPktTime, pairTimeout := t.pairTimeout, pair := t.pair,
                 pairCount := t.pairCount, stat := t.stat, nv := t.nv, nvPort := t.nvPort } ∧
    (s.msgReady = true → t.msgReady = true) ∧
    (t.pairTimeout = s.pairTimeout ∨ t.pairTimeout = 0) ∧
    (t.pairCount = s.pairCount ∨ t.pairCount = s.pairCount + 1) ∧
    ∀ a : NvAddr, a ≠ nvAddr s.cfg 0 → (∀ i : Fin 8, a ≠ nvAddr s.cfg (entryOffset s.pairCount.toNat i)) →
      t.nv.read a.toNat = s.nv.read a.toNat

/-- R227: what a host command may write, and how; of NV, no byte but the count and the entry at PAIR_COUNT, and nothing
at all (nor any access) for the commands to which R68 gives none. -/
def Obligations.HostPortWritesOnly : Prop :=
  ∀ (i : Instr) (s t : State), ¬ isEdge i → exec i s = .next t →
    t = { s with enabled := t.enabled, msgReady := t.msgReady, repeatThresh := t.repeatThresh,
                 repeatTimeout := t.repeatTimeout, pairTimeout := t.pairTimeout, pairStart := t.pairStart,
                 pair := t.pair, pairCount := t.pairCount, statsEn := t.statsEn, stat := t.stat, nv := t.nv,
                 nvPort := t.nvPort, resp := t.resp } ∧
    (s.enabled = true → t.enabled = true) ∧
    (t.msgReady = true → s.msgReady = true) ∧
    (t.stat = s.stat ∨ t.stat = s.cfg.statsDefault) ∧
    (∀ a : NvAddr, a ≠ nvAddr s.cfg 0 → (∀ j : Fin 8, a ≠ nvAddr s.cfg (entryOffset s.pairCount.toNat j)) →
      t.nv.read a.toNat = s.nv.read a.toNat) ∧
    (i = .init ∨ i = .clrpair → ∀ a : NvAddr, a ≠ nvAddr s.cfg 0 → t.nv.read a.toNat = s.nv.read a.toNat) ∧
    (i ≠ .init → i ≠ .clrpair → ¬ isAddpair i → t.nv = s.nv ∧ t.nvPort = s.nvPort)

/-- R42: the response of a command is a function of what the host can observe directly, and, for INIT alone, of NV, and,
for INIT and ADDPAIR alone, of the parameters. -/
def Obligations.ResponsesRevealOnlyObservableState : Prop :=
  ∀ (i : Instr) (s t s1 t1 : State), ¬ isEdge i → HostAgree s t → (i = .init → s.nv = t.nv) →
    (i = .init ∨ isAddpair i → s.cfg = t.cfg) → exec i s = .next s1 → exec i t = .next t1 → s1.resp = t1.resp

/-- R43, an inference the spec marks as its own: the invariants hold right after reset (the canonical form of the store
is the model's, log entry 2). -/
def Obligations.InvariantsHoldAtReset : Prop := Invariants State.reset ∧ SymbolsOk State.reset

/-- R43, an inference the spec marks as its own: every step keeps the invariants, reset and torn operations among them
(the canonical form of the store is the model's, log entry 2). -/
def Obligations.EveryStepKeepsTheInvariants : Prop :=
  ∀ s t : State, Invariants s → step s = .next t → Invariants t

/-- R137, an inference the spec marks as its own: every step keeps it that no byte received has two adjacent 0 bits. -/
def Obligations.EveryStepKeepsSymbolsFreeOfDoubleZeros : Prop :=
  ∀ s t : State, SymbolsOk s → step s = .next t → SymbolsOk t
end

