-- ==== Sys2Proof/Laws/Decode.lean ====
section
/-! SUPPORT. The fields of a word built from fields, and what the byte form keeps of a number. -/

namespace Sys2Proof

@[simp] theorem cmdOp_cmdWord (op : BitVec 4) (ms : Time) (arg : BitVec 64) : cmdOp (cmdWord op ms arg) = op := by
  apply BitVec.eq_of_getElem_eq
  intro i hi
  simp only [cmdOp, cmdWord, BitVec.getElem_extractLsb', BitVec.getLsbD_append]
  rw [if_neg (by omega), if_neg (by omega), show 96 + i - 64 - 32 = i by omega, BitVec.getLsbD_eq_getElem]

@[simp] theorem cmdMs_cmdWord (op : BitVec 4) (ms : Time) (arg : BitVec 64) : cmdMs (cmdWord op ms arg) = ms := by
  apply BitVec.eq_of_getElem_eq
  intro i hi
  simp only [cmdMs, cmdWord, BitVec.getElem_extractLsb', BitVec.getLsbD_append]
  rw [if_neg (by omega), if_pos (by omega), show 64 + i - 64 = i by omega, BitVec.getLsbD_eq_getElem]

@[simp] theorem cmdArg_cmdWord (op : BitVec 4) (ms : Time) (arg : BitVec 64) : cmdArg (cmdWord op ms arg) = arg := by
  apply BitVec.eq_of_getElem_eq
  intro i hi
  simp only [cmdArg, cmdWord, BitVec.getElem_extractLsb', BitVec.getLsbD_append]
  rw [if_pos (by omega), Nat.zero_add, BitVec.getLsbD_eq_getElem]

/-- The bytes of a number that fits are that number again. -/
theorem natOfBytes_bytesOfNat (n w : Nat) (h : w < 256 ^ n) : natOfBytes (bytesOfNat n w) = w := by
  induction n generalizing w with
  | zero =>
    have : w = 0 := by simpa using h
    subst this
    rfl
  | succ n ih =>
    have hw : w / 256 < 256 ^ n := Nat.div_lt_of_lt_mul (by rw [pow_succ, Nat.mul_comm] at h; exact h)
    have := ih _ hw
    simp only [natOfBytes] at this
    simp only [bytesOfNat, natOfBytes, List.foldr_cons, this, BitVec.toNat_ofNat]
    omega

@[simp] theorem bytesOfNat_length (n w : Nat) : (bytesOfNat n w).length = n := by
  induction n generalizing w with
  | zero => rfl
  | succ n ih => simp [bytesOfNat, ih]

end Sys2Proof
end

