-- ==== Sys2Proof/Laws/Memory.lean ====
section
/-! SUPPORT. The laws of the persistent store: read after write, and that every operation on it keeps the canonical
form. -/

namespace Sys2Proof.Machine

@[simp] theorem Memory.read_nil (k : Nat) : Memory.read [] k = Memory.unlisted := rfl

@[simp] theorem Memory.wf_nil : Memory.wf [] = true := rfl

theorem Memory.wf_cons (a : Nat) (b : Byte) (rest : Memory) :
    Memory.wf ((a, b) :: rest) = true ↔
      a < 65536 ∧ b ≠ Memory.unlisted ∧ (∀ c ∈ rest, a < c.1) ∧ Memory.wf rest = true := by
  simp [Memory.wf, and_assoc]

/-- An address below every listed one reads as unlisted. -/
theorem Memory.read_below (m : Memory) (k : Nat) (h : ∀ c ∈ m, k < c.1) : m.read k = Memory.unlisted := by
  induction m with
  | nil => rfl
  | cons c rest ih =>
    obtain ⟨a, b⟩ := c
    have ha : k < a := h (a, b) (by simp)
    have hr : ∀ c ∈ rest, k < c.1 := fun c hc => h c (by simp [hc])
    simp [Memory.read, ih hr, Nat.ne_of_gt ha]

/-- A write lists no address but its own beside those listed before. -/
theorem Memory.mem_write (m : Memory) (k : Nat) (v : Byte) (c : Host.Cell) (h : c ∈ m.write k v) :
    c = (k, v) ∨ c ∈ m := by
  induction m with
  | nil =>
    simp only [Memory.write] at h
    split at h
    · simp at h
    · exact .inl (by simpa using h)
  | cons d rest ih =>
    obtain ⟨a, b⟩ := d
    simp only [Memory.write] at h
    split at h
    · split at h
      · exact .inr h
      · simpa using h
    · split at h
      · split at h
        · exact .inr (by simp [h])
        · rcases List.mem_cons.1 h with h | h
          · exact .inl h
          · exact .inr (by simp [h])
      · rcases List.mem_cons.1 h with h | h
        · exact .inr (by simp [h])
        · rcases ih h with h | h
          · exact .inl h
          · exact .inr (by simp [h])

/-- A write keeps the canonical form. -/
theorem Memory.write_wf (m : Memory) (k : Nat) (v : Byte) (hk : k < 65536) (h : m.wf = true) :
    (m.write k v).wf = true := by
  induction m with
  | nil => by_cases hv : v = Memory.unlisted <;> simp [Memory.write, hv, Memory.wf, hk]
  | cons c rest ih =>
    obtain ⟨a, b⟩ := c
    obtain ⟨h1, h2, h3, h4⟩ := (Memory.wf_cons a b rest).1 h
    simp only [Memory.write]
    split
    · next hlt =>
      split
      · exact h
      · next hv =>
        refine (Memory.wf_cons _ _ _).2 ⟨hk, hv, ?_, h⟩
        intro c hc
        rcases List.mem_cons.1 hc with rfl | hc
        · exact hlt
        · exact hlt.trans (h3 c hc)
    · split
      · next hlt heq =>
        subst heq
        split
        · exact h4
        · next hv => exact (Memory.wf_cons _ _ _).2 ⟨hk, hv, h3, h4⟩
      · next hlt hne =>
        refine (Memory.wf_cons _ _ _).2 ⟨h1, h2, ?_, ih h4⟩
        intro c hc
        rcases Memory.mem_write rest k v c hc with rfl | hc
        · simp only; omega
        · exact h3 c hc

/-- Reading the address just written gives the byte written. -/
theorem Memory.read_write_same (m : Memory) (k : Nat) (v : Byte) (h : m.wf = true) : (m.write k v).read k = v := by
  induction m with
  | nil =>
    by_cases hv : v = Memory.unlisted <;> simp [Memory.write, hv, Memory.read]
  | cons c rest ih =>
    obtain ⟨a, b⟩ := c
    obtain ⟨_, _, h3, h4⟩ := (Memory.wf_cons a b rest).1 h
    simp only [Memory.write]
    split
    · next hlt =>
      split
      · next hv =>
        subst hv
        exact Memory.read_below _ _ (by
          intro c hc
          rcases List.mem_cons.1 hc with rfl | hc
          · exact hlt
          · exact hlt.trans (h3 c hc))
      · simp [Memory.read]
    · split
      · next hlt heq =>
        subst heq
        split
        · next hv => subst hv; exact Memory.read_below _ _ h3
        · simp [Memory.read]
      · next hlt hne => simp [Memory.read, ih h4, Ne.symm hne]

/-- Reading another address gives what it gave before. -/
theorem Memory.read_write_other (m : Memory) (k j : Nat) (v : Byte) (hj : j ≠ k) : (m.write k v).read j = m.read j := by
  induction m with
  | nil =>
    by_cases hv : v = Memory.unlisted <;> simp [Memory.write, hv, Memory.read, Ne.symm hj]
  | cons c rest ih =>
    obtain ⟨a, b⟩ := c
    simp only [Memory.write]
    split
    · split <;> simp [Memory.read, Ne.symm hj]
    · split
      · next heq => subst heq; split <;> simp [Memory.read, Ne.symm hj]
      · simp [Memory.read, ih]

/-- Two canonical stores that read alike at every address are equal. -/
theorem Memory.ext_read (m n : Memory) (hm : m.wf = true) (hn : n.wf = true) (h : ∀ k, m.read k = n.read k) : m = n := by
  induction m generalizing n with
  | nil =>
    cases n with
    | nil => rfl
    | cons d _ =>
      obtain ⟨a, b⟩ := d
      have h2 := ((Memory.wf_cons _ _ _).1 hn).2.1
      exact absurd (by simpa [Memory.read] using (h a).symm) h2
  | cons c rest ih =>
    obtain ⟨a, b⟩ := c
    obtain ⟨_, hb, ha, hr⟩ := (Memory.wf_cons _ _ _).1 hm
    cases n with
    | nil => exact absurd (by simpa [Memory.read] using h a) hb
    | cons d rest' =>
      obtain ⟨a', b'⟩ := d
      obtain ⟨_, hb', ha', hr'⟩ := (Memory.wf_cons _ _ _).1 hn
      have haa : a = a' := by
        rcases Nat.lt_trichotomy a a' with hlt | heq | hgt
        · have := h a
          rw [Memory.read_below ((a', b') :: rest') a (by
            intro c hc
            rcases List.mem_cons.1 hc with rfl | hc
            · exact hlt
            · exact hlt.trans (ha' c hc))] at this
          exact absurd (by simpa [Memory.read] using this) hb
        · exact heq
        · have := h a'
          rw [Memory.read_below ((a, b) :: rest) a' (by
            intro c hc
            rcases List.mem_cons.1 hc with rfl | hc
            · exact hgt
            · exact hgt.trans (ha c hc))] at this
          exact absurd (by simpa [Memory.read] using this.symm) hb'
      subst haa
      have hbb : b = b' := by simpa [Memory.read] using h a
      subst hbb
      congr 1
      refine ih rest' hr hr' fun k => ?_
      by_cases hk : a = k
      · subst hk; rw [Memory.read_below _ _ ha, Memory.read_below _ _ ha']
      · simpa [Memory.read, hk] using h k

/-! ### The store with given contents -/

/-- The cells listed lie in the range listed. -/
theorem Memory.mem_listFrom (f : NvAddr → Byte) (n a : Nat) (c : Host.Cell) (h : c ∈ Memory.listFrom f n a) :
    a ≤ c.1 ∧ c.1 < a + n := by
  induction n generalizing a with
  | zero => simp [Memory.listFrom] at h
  | succ n ih =>
    simp only [Memory.listFrom] at h
    split at h
    · have := ih (a + 1) h; omega
    · rcases List.mem_cons.1 h with rfl | h
      · simp only; omega
      · have := ih (a + 1) h; omega

theorem Memory.listFrom_wf (f : NvAddr → Byte) (n a : Nat) (h : a + n ≤ 65536) : (Memory.listFrom f n a).wf = true := by
  induction n generalizing a with
  | zero => rfl
  | succ n ih =>
    simp only [Memory.listFrom]
    split
    · exact ih (a + 1) (by omega)
    · next hb =>
      refine (Memory.wf_cons _ _ _).2 ⟨by omega, hb, fun c hc => ?_, ih (a + 1) (by omega)⟩
      have := Memory.mem_listFrom f n (a + 1) c hc
      omega

theorem Memory.read_listFrom (f : NvAddr → Byte) (n a k : Nat) (ha : a ≤ k) (hk : k < a + n) :
    (Memory.listFrom f n a).read k = f (BitVec.ofNat 16 k) := by
  induction n generalizing a with
  | zero => omega
  | succ n ih =>
    simp only [Memory.listFrom]
    by_cases hak : a = k
    · subst hak
      split
      · next hb =>
        rw [hb]
        refine Memory.read_below _ _ fun c hc => ?_
        have := Memory.mem_listFrom f n (a + 1) c hc
        omega
      · simp [Memory.read]
    · split
      · exact ih (a + 1) (by omega) (by omega)
      · simp only [Memory.read, if_neg hak]
        exact ih (a + 1) (by omega) (by omega)

/-- The store with given contents is in canonical form. -/
theorem Memory.ofContents_wf (f : NvAddr → Byte) : (Memory.ofContents f).wf = true := Memory.listFrom_wf f _ _ (by omega)

/-- The store with given contents reads as them at every address. -/
@[simp] theorem Memory.read_ofContents (f : NvAddr → Byte) (a : NvAddr) : (Memory.ofContents f).read a.toNat = f a := by
  rw [Memory.ofContents, Memory.read_listFrom f _ _ _ (Nat.zero_le _) (by have := a.isLt; omega), BitVec.ofNat_toNat,
    BitVec.setWidth_eq]

/-! ### The operations on the store -/

theorem applyAccess_wf (m : Memory) (a : NvAccess) (h : m.wf = true) : (applyAccess m a).wf = true := by
  cases a with
  | read _ _ => exact h
  | write addr b => exact Memory.write_wf m _ b addr.isLt h

theorem foldl_applyAccess_wf (l : List NvAccess) (m : Memory) (h : m.wf = true) :
    (l.foldl applyAccess m).wf = true := by
  induction l generalizing m with
  | nil => exact h
  | cons a rest ih => exact ih _ (applyAccess_wf m a h)

theorem nvWrite_nv_wf (s : State) (off : Nat) (b : Byte) (h : s.nv.wf = true) : (nvWrite s off b).nv.wf = true :=
  Memory.write_wf s.nv _ b (nvAddr s.cfg off).isLt h

/-- The offsets the core uses name different addresses (R60, R61). -/
theorem nvAddr_inj (p : Config.Params) (a b : Nat) (ha : a < 65536) (hb : b < 65536)
    (h : (nvAddr p a).toNat = (nvAddr p b).toNat) : a = b := by
  have h1 : nvAddr p a = nvAddr p b := BitVec.eq_of_toNat_eq h
  have h2 : BitVec.ofNat 16 a = BitVec.ofNat 16 b := (BitVec.add_right_inj _).1 h1
  have h3 := congrArg BitVec.toNat h2
  simp only [BitVec.toNat_ofNat] at h3
  omega

theorem nvByte_nvWrite_same (s : State) (off : Nat) (b : Byte) (h : s.nv.wf = true) :
    nvByte (nvWrite s off b) off = b :=
  Memory.read_write_same s.nv _ b h

theorem nvByte_nvWrite_other (s : State) (off j : Nat) (b : Byte) (ho : off < 65536) (hj : j < 65536) (hne : j ≠ off) :
    nvByte (nvWrite s off b) j = nvByte s j :=
  Memory.read_write_other s.nv _ _ b fun h => hne (nvAddr_inj s.cfg j off hj ho h)

end Sys2Proof.Machine
end

