-- ==== Sys2Proof/Laws/State.lean ====
section
/-! SUPPORT. One lemma per field for each named update of the state, and the fields of the state after reset. -/

namespace Sys2Proof.Machine

/-! ### nvRead -/

@[simp] theorem nvRead_enabled (s : State) (off : Nat) : (nvRead s off).2.enabled = s.enabled := rfl
@[simp] theorem nvRead_prevTs (s : State) (off : Nat) : (nvRead s off).2.prevTs = s.prevTs := rfl
@[simp] theorem nvRead_dstate (s : State) (off : Nat) : (nvRead s off).2.dstate = s.dstate := rfl
@[simp] theorem nvRead_acc (s : State) (off : Nat) : (nvRead s off).2.acc = s.acc := rfl
@[simp] theorem nvRead_bitCnt (s : State) (off : Nat) : (nvRead s off).2.bitCnt = s.bitCnt := rfl
@[simp] theorem nvRead_byteCnt (s : State) (off : Nat) : (nvRead s off).2.byteCnt = s.byteCnt := rfl
@[simp] theorem nvRead_buf (s : State) (off : Nat) : (nvRead s off).2.buf = s.buf := rfl
@[simp] theorem nvRead_msg (s : State) (off : Nat) : (nvRead s off).2.msg = s.msg := rfl
@[simp] theorem nvRead_msgReady (s : State) (off : Nat) : (nvRead s off).2.msgReady = s.msgReady := rfl
@[simp] theorem nvRead_repeatThresh (s : State) (off : Nat) : (nvRead s off).2.repeatThresh = s.repeatThresh := rfl
@[simp] theorem nvRead_repeatTimeout (s : State) (off : Nat) : (nvRead s off).2.repeatTimeout = s.repeatTimeout := rfl
@[simp] theorem nvRead_repeatCnt (s : State) (off : Nat) : (nvRead s off).2.repeatCnt = s.repeatCnt := rfl
@[simp] theorem nvRead_lastPktTime (s : State) (off : Nat) : (nvRead s off).2.lastPktTime = s.lastPktTime := rfl
@[simp] theorem nvRead_pairTimeout (s : State) (off : Nat) : (nvRead s off).2.pairTimeout = s.pairTimeout := rfl
@[simp] theorem nvRead_pairStart (s : State) (off : Nat) : (nvRead s off).2.pairStart = s.pairStart := rfl
@[simp] theorem nvRead_pairCount (s : State) (off : Nat) : (nvRead s off).2.pairCount = s.pairCount := rfl
@[simp] theorem nvRead_pair (s : State) (off : Nat) : (nvRead s off).2.pair = s.pair := rfl
@[simp] theorem nvRead_statsEn (s : State) (off : Nat) : (nvRead s off).2.statsEn = s.statsEn := rfl
@[simp] theorem nvRead_stat (s : State) (off : Nat) : (nvRead s off).2.stat = s.stat := rfl
@[simp] theorem nvRead_nv (s : State) (off : Nat) : (nvRead s off).2.nv = s.nv := rfl
@[simp] theorem nvRead_cfg (s : State) (off : Nat) : (nvRead s off).2.cfg = s.cfg := rfl
@[simp] theorem nvRead_inbox (s : State) (off : Nat) : (nvRead s off).2.inbox = s.inbox := rfl
@[simp] theorem nvRead_resp (s : State) (off : Nat) : (nvRead s off).2.resp = s.resp := rfl
@[simp] theorem nvRead_nvPort (s : State) (off : Nat) : (nvRead s off).2.nvPort = s.nvPort ++ [.read (nvAddr s.cfg off) (nvByte s off)] := rfl

/-! ### nvWrite -/

@[simp] theorem nvWrite_enabled (s : State) (off : Nat) (b : Byte) : (nvWrite s off b).enabled = s.enabled := rfl
@[simp] theorem nvWrite_prevTs (s : State) (off : Nat) (b : Byte) : (nvWrite s off b).prevTs = s.prevTs := rfl
@[simp] theorem nvWrite_dstate (s : State) (off : Nat) (b : Byte) : (nvWrite s off b).dstate = s.dstate := rfl
@[simp] theorem nvWrite_acc (s : State) (off : Nat) (b : Byte) : (nvWrite s off b).acc = s.acc := rfl
@[simp] theorem nvWrite_bitCnt (s : State) (off : Nat) (b : Byte) : (nvWrite s off b).bitCnt = s.bitCnt := rfl
@[simp] theorem nvWrite_byteCnt (s : State) (off : Nat) (b : Byte) : (nvWrite s off b).byteCnt = s.byteCnt := rfl
@[simp] theorem nvWrite_buf (s : State) (off : Nat) (b : Byte) : (nvWrite s off b).buf = s.buf := rfl
@[simp] theorem nvWrite_msg (s : State) (off : Nat) (b : Byte) : (nvWrite s off b).msg = s.msg := rfl
@[simp] theorem nvWrite_msgReady (s : State) (off : Nat) (b : Byte) : (nvWrite s off b).msgReady = s.msgReady := rfl
@[simp] theorem nvWrite_repeatThresh (s : State) (off : Nat) (b : Byte) : (nvWrite s off b).repeatThresh = s.repeatThresh := rfl
@[simp] theorem nvWrite_repeatTimeout (s : State) (off : Nat) (b : Byte) : (nvWrite s off b).repeatTimeout = s.repeatTimeout := rfl
@[simp] theorem nvWrite_repeatCnt (s : State) (off : Nat) (b : Byte) : (nvWrite s off b).repeatCnt = s.repeatCnt := rfl
@[simp] theorem nvWrite_lastPktTime (s : State) (off : Nat) (b : Byte) : (nvWrite s off b).lastPktTime = s.lastPktTime := rfl
@[simp] theorem nvWrite_pairTimeout (s : State) (off : Nat) (b : Byte) : (nvWrite s off b).pairTimeout = s.pairTimeout := rfl
@[simp] theorem nvWrite_pairStart (s : State) (off : Nat) (b : Byte) : (nvWrite s off b).pairStart = s.pairStart := rfl
@[simp] theorem nvWrite_pairCount (s : State) (off : Nat) (b : Byte) : (nvWrite s off b).pairCount = s.pairCount := rfl
@[simp] theorem nvWrite_pair (s : State) (off : Nat) (b : Byte) : (nvWrite s off b).pair = s.pair := rfl
@[simp] theorem nvWrite_statsEn (s : State) (off : Nat) (b : Byte) : (nvWrite s off b).statsEn = s.statsEn := rfl
@[simp] theorem nvWrite_stat (s : State) (off : Nat) (b : Byte) : (nvWrite s off b).stat = s.stat := rfl
@[simp] theorem nvWrite_nv (s : State) (off : Nat) (b : Byte) : (nvWrite s off b).nv = s.nv.write (nvAddr s.cfg off).toNat b := rfl
@[simp] theorem nvWrite_cfg (s : State) (off : Nat) (b : Byte) : (nvWrite s off b).cfg = s.cfg := rfl
@[simp] theorem nvWrite_inbox (s : State) (off : Nat) (b : Byte) : (nvWrite s off b).inbox = s.inbox := rfl
@[simp] theorem nvWrite_resp (s : State) (off : Nat) (b : Byte) : (nvWrite s off b).resp = s.resp := rfl
@[simp] theorem nvWrite_nvPort (s : State) (off : Nat) (b : Byte) : (nvWrite s off b).nvPort = s.nvPort ++ [.write (nvAddr s.cfg off) b] := rfl

/-! ### respond -/

@[simp] theorem respond_enabled (s : State) (ok : Bool) (count : BitVec 8) (data : BitVec 144) : (respond s ok count data).enabled = s.enabled := rfl
@[simp] theorem respond_prevTs (s : State) (ok : Bool) (count : BitVec 8) (data : BitVec 144) : (respond s ok count data).prevTs = s.prevTs := rfl
@[simp] theorem respond_dstate (s : State) (ok : Bool) (count : BitVec 8) (data : BitVec 144) : (respond s ok count data).dstate = s.dstate := rfl
@[simp] theorem respond_acc (s : State) (ok : Bool) (count : BitVec 8) (data : BitVec 144) : (respond s ok count data).acc = s.acc := rfl
@[simp] theorem respond_bitCnt (s : State) (ok : Bool) (count : BitVec 8) (data : BitVec 144) : (respond s ok count data).bitCnt = s.bitCnt := rfl
@[simp] theorem respond_byteCnt (s : State) (ok : Bool) (count : BitVec 8) (data : BitVec 144) : (respond s ok count data).byteCnt = s.byteCnt := rfl
@[simp] theorem respond_buf (s : State) (ok : Bool) (count : BitVec 8) (data : BitVec 144) : (respond s ok count data).buf = s.buf := rfl
@[simp] theorem respond_msg (s : State) (ok : Bool) (count : BitVec 8) (data : BitVec 144) : (respond s ok count data).msg = s.msg := rfl
@[simp] theorem respond_msgReady (s : State) (ok : Bool) (count : BitVec 8) (data : BitVec 144) : (respond s ok count data).msgReady = s.msgReady := rfl
@[simp] theorem respond_repeatThresh (s : State) (ok : Bool) (count : BitVec 8) (data : BitVec 144) : (respond s ok count data).repeatThresh = s.repeatThresh := rfl
@[simp] theorem respond_repeatTimeout (s : State) (ok : Bool) (count : BitVec 8) (data : BitVec 144) : (respond s ok count data).repeatTimeout = s.repeatTimeout := rfl
@[simp] theorem respond_repeatCnt (s : State) (ok : Bool) (count : BitVec 8) (data : BitVec 144) : (respond s ok count data).repeatCnt = s.repeatCnt := rfl
@[simp] theorem respond_lastPktTime (s : State) (ok : Bool) (count : BitVec 8) (data : BitVec 144) : (respond s ok count data).lastPktTime = s.lastPktTime := rfl
@[simp] theorem respond_pairTimeout (s : State) (ok : Bool) (count : BitVec 8) (data : BitVec 144) : (respond s ok count data).pairTimeout = s.pairTimeout := rfl
@[simp] theorem respond_pairStart (s : State) (ok : Bool) (count : BitVec 8) (data : BitVec 144) : (respond s ok count data).pairStart = s.pairStart := rfl
@[simp] theorem respond_pairCount (s : State) (ok : Bool) (count : BitVec 8) (data : BitVec 144) : (respond s ok count data).pairCount = s.pairCount := rfl
@[simp] theorem respond_pair (s : State) (ok : Bool) (count : BitVec 8) (data : BitVec 144) : (respond s ok count data).pair = s.pair := rfl
@[simp] theorem respond_statsEn (s : State) (ok : Bool) (count : BitVec 8) (data : BitVec 144) : (respond s ok count data).statsEn = s.statsEn := rfl
@[simp] theorem respond_stat (s : State) (ok : Bool) (count : BitVec 8) (data : BitVec 144) : (respond s ok count data).stat = s.stat := rfl
@[simp] theorem respond_nv (s : State) (ok : Bool) (count : BitVec 8) (data : BitVec 144) : (respond s ok count data).nv = s.nv := rfl
@[simp] theorem respond_cfg (s : State) (ok : Bool) (count : BitVec 8) (data : BitVec 144) : (respond s ok count data).cfg = s.cfg := rfl
@[simp] theorem respond_inbox (s : State) (ok : Bool) (count : BitVec 8) (data : BitVec 144) : (respond s ok count data).inbox = s.inbox := rfl
@[simp] theorem respond_resp (s : State) (ok : Bool) (count : BitVec 8) (data : BitVec 144) : (respond s ok count data).resp = some (respWord ok count data) := rfl
@[simp] theorem respond_nvPort (s : State) (ok : Bool) (count : BitVec 8) (data : BitVec 144) : (respond s ok count data).nvPort = s.nvPort := rfl

/-! ### clearOutputs -/

@[simp] theorem clearOutputs_enabled (s : State) : (clearOutputs s).enabled = s.enabled := rfl
@[simp] theorem clearOutputs_prevTs (s : State) : (clearOutputs s).prevTs = s.prevTs := rfl
@[simp] theorem clearOutputs_dstate (s : State) : (clearOutputs s).dstate = s.dstate := rfl
@[simp] theorem clearOutputs_acc (s : State) : (clearOutputs s).acc = s.acc := rfl
@[simp] theorem clearOutputs_bitCnt (s : State) : (clearOutputs s).bitCnt = s.bitCnt := rfl
@[simp] theorem clearOutputs_byteCnt (s : State) : (clearOutputs s).byteCnt = s.byteCnt := rfl
@[simp] theorem clearOutputs_buf (s : State) : (clearOutputs s).buf = s.buf := rfl
@[simp] theorem clearOutputs_msg (s : State) : (clearOutputs s).msg = s.msg := rfl
@[simp] theorem clearOutputs_msgReady (s : State) : (clearOutputs s).msgReady = s.msgReady := rfl
@[simp] theorem clearOutputs_repeatThresh (s : State) : (clearOutputs s).repeatThresh = s.repeatThresh := rfl
@[simp] theorem clearOutputs_repeatTimeout (s : State) : (clearOutputs s).repeatTimeout = s.repeatTimeout := rfl
@[simp] theorem clearOutputs_repeatCnt (s : State) : (clearOutputs s).repeatCnt = s.repeatCnt := rfl
@[simp] theorem clearOutputs_lastPktTime (s : State) : (clearOutputs s).lastPktTime = s.lastPktTime := rfl
@[simp] theorem clearOutputs_pairTimeout (s : State) : (clearOutputs s).pairTimeout = s.pairTimeout := rfl
@[simp] theorem clearOutputs_pairStart (s : State) : (clearOutputs s).pairStart = s.pairStart := rfl
@[simp] theorem clearOutputs_pairCount (s : State) : (clearOutputs s).pairCount = s.pairCount := rfl
@[simp] theorem clearOutputs_pair (s : State) : (clearOutputs s).pair = s.pair := rfl
@[simp] theorem clearOutputs_statsEn (s : State) : (clearOutputs s).statsEn = s.statsEn := rfl
@[simp] theorem clearOutputs_stat (s : State) : (clearOutputs s).stat = s.stat := rfl
@[simp] theorem clearOutputs_nv (s : State) : (clearOutputs s).nv = s.nv := rfl
@[simp] theorem clearOutputs_cfg (s : State) : (clearOutputs s).cfg = s.cfg := rfl
@[simp] theorem clearOutputs_inbox (s : State) : (clearOutputs s).inbox = s.inbox := rfl
@[simp] theorem clearOutputs_resp (s : State) : (clearOutputs s).resp = none := rfl
@[simp] theorem clearOutputs_nvPort (s : State) : (clearOutputs s).nvPort = [] := rfl

/-! ### resync -/

@[simp] theorem resync_enabled (s : State) : (resync s).enabled = s.enabled := rfl
@[simp] theorem resync_prevTs (s : State) : (resync s).prevTs = s.prevTs := rfl
@[simp] theorem resync_dstate (s : State) : (resync s).dstate = .idle := rfl
@[simp] theorem resync_acc (s : State) : (resync s).acc = s.acc := rfl
@[simp] theorem resync_bitCnt (s : State) : (resync s).bitCnt = s.bitCnt := rfl
@[simp] theorem resync_byteCnt (s : State) : (resync s).byteCnt = s.byteCnt := rfl
@[simp] theorem resync_buf (s : State) : (resync s).buf = s.buf := rfl
@[simp] theorem resync_msg (s : State) : (resync s).msg = s.msg := rfl
@[simp] theorem resync_msgReady (s : State) : (resync s).msgReady = s.msgReady := rfl
@[simp] theorem resync_repeatThresh (s : State) : (resync s).repeatThresh = s.repeatThresh := rfl
@[simp] theorem resync_repeatTimeout (s : State) : (resync s).repeatTimeout = s.repeatTimeout := rfl
@[simp] theorem resync_repeatCnt (s : State) : (resync s).repeatCnt = s.repeatCnt := rfl
@[simp] theorem resync_lastPktTime (s : State) : (resync s).lastPktTime = s.lastPktTime := rfl
@[simp] theorem resync_pairTimeout (s : State) : (resync s).pairTimeout = s.pairTimeout := rfl
@[simp] theorem resync_pairStart (s : State) : (resync s).pairStart = s.pairStart := rfl
@[simp] theorem resync_pairCount (s : State) : (resync s).pairCount = s.pairCount := rfl
@[simp] theorem resync_pair (s : State) : (resync s).pair = s.pair := rfl
@[simp] theorem resync_statsEn (s : State) : (resync s).statsEn = s.statsEn := rfl
@[simp] theorem resync_stat (s : State) : (resync s).stat = s.stat := rfl
@[simp] theorem resync_nv (s : State) : (resync s).nv = s.nv := rfl
@[simp] theorem resync_cfg (s : State) : (resync s).cfg = s.cfg := rfl
@[simp] theorem resync_inbox (s : State) : (resync s).inbox = s.inbox := rfl
@[simp] theorem resync_resp (s : State) : (resync s).resp = s.resp := rfl
@[simp] theorem resync_nvPort (s : State) : (resync s).nvPort = s.nvPort := rfl

/-! ### recordCandidate -/

@[simp] theorem recordCandidate_enabled (now : Time) (s : State) : (recordCandidate now s).enabled = s.enabled := rfl
@[simp] theorem recordCandidate_prevTs (now : Time) (s : State) : (recordCandidate now s).prevTs = s.prevTs := rfl
@[simp] theorem recordCandidate_dstate (now : Time) (s : State) : (recordCandidate now s).dstate = s.dstate := rfl
@[simp] theorem recordCandidate_acc (now : Time) (s : State) : (recordCandidate now s).acc = s.acc := rfl
@[simp] theorem recordCandidate_bitCnt (now : Time) (s : State) : (recordCandidate now s).bitCnt = s.bitCnt := rfl
@[simp] theorem recordCandidate_byteCnt (now : Time) (s : State) : (recordCandidate now s).byteCnt = s.byteCnt := rfl
@[simp] theorem recordCandidate_buf (now : Time) (s : State) : (recordCandidate now s).buf = s.buf := rfl
@[simp] theorem recordCandidate_msg (now : Time) (s : State) : (recordCandidate now s).msg = s.buf := rfl
@[simp] theorem recordCandidate_msgReady (now : Time) (s : State) : (recordCandidate now s).msgReady = s.msgReady := rfl
@[simp] theorem recordCandidate_repeatThresh (now : Time) (s : State) : (recordCandidate now s).repeatThresh = s.repeatThresh := rfl
@[simp] theorem recordCandidate_repeatTimeout (now : Time) (s : State) : (recordCandidate now s).repeatTimeout = s.repeatTimeout := rfl
@[simp] theorem recordCandidate_repeatCnt (now : Time) (s : State) : (recordCandidate now s).repeatCnt = nextRepeatCnt now s := rfl
@[simp] theorem recordCandidate_lastPktTime (now : Time) (s : State) : (recordCandidate now s).lastPktTime = now := rfl
@[simp] theorem recordCandidate_pairTimeout (now : Time) (s : State) : (recordCandidate now s).pairTimeout = s.pairTimeout := rfl
@[simp] theorem recordCandidate_pairStart (now : Time) (s : State) : (recordCandidate now s).pairStart = s.pairStart := rfl
@[simp] theorem recordCandidate_pairCount (now : Time) (s : State) : (recordCandidate now s).pairCount = s.pairCount := rfl
@[simp] theorem recordCandidate_pair (now : Time) (s : State) : (recordCandidate now s).pair = s.pair := rfl
@[simp] theorem recordCandidate_statsEn (now : Time) (s : State) : (recordCandidate now s).statsEn = s.statsEn := rfl
@[simp] theorem recordCandidate_stat (now : Time) (s : State) : (recordCandidate now s).stat = s.stat := rfl
@[simp] theorem recordCandidate_nv (now : Time) (s : State) : (recordCandidate now s).nv = s.nv := rfl
@[simp] theorem recordCandidate_cfg (now : Time) (s : State) : (recordCandidate now s).cfg = s.cfg := rfl
@[simp] theorem recordCandidate_inbox (now : Time) (s : State) : (recordCandidate now s).inbox = s.inbox := rfl
@[simp] theorem recordCandidate_resp (now : Time) (s : State) : (recordCandidate now s).resp = s.resp := rfl
@[simp] theorem recordCandidate_nvPort (now : Time) (s : State) : (recordCandidate now s).nvPort = s.nvPort := rfl

/-! ### Reset -/

@[simp] theorem initial_enabled (cfg : Config.Params) (nv : Memory) (inbox : List Arrival) :
    (State.initial cfg nv inbox).enabled = false := rfl
@[simp] theorem initial_prevTs (cfg : Config.Params) (nv : Memory) (inbox : List Arrival) :
    (State.initial cfg nv inbox).prevTs = 0 := rfl
@[simp] theorem initial_dstate (cfg : Config.Params) (nv : Memory) (inbox : List Arrival) :
    (State.initial cfg nv inbox).dstate = .idle := rfl
@[simp] theorem initial_acc (cfg : Config.Params) (nv : Memory) (inbox : List Arrival) :
    (State.initial cfg nv inbox).acc = 0 := rfl
@[simp] theorem initial_bitCnt (cfg : Config.Params) (nv : Memory) (inbox : List Arrival) :
    (State.initial cfg nv inbox).bitCnt = 0 := rfl
@[simp] theorem initial_byteCnt (cfg : Config.Params) (nv : Memory) (inbox : List Arrival) :
    (State.initial cfg nv inbox).byteCnt = 0 := rfl
@[simp] theorem initial_buf (cfg : Config.Params) (nv : Memory) (inbox : List Arrival) :
    (State.initial cfg nv inbox).buf = Vector.replicate 10 0 := rfl
@[simp] theorem initial_msg (cfg : Config.Params) (nv : Memory) (inbox : List Arrival) :
    (State.initial cfg nv inbox).msg = Vector.replicate 10 0 := rfl
@[simp] theorem initial_msgReady (cfg : Config.Params) (nv : Memory) (inbox : List Arrival) :
    (State.initial cfg nv inbox).msgReady = false := rfl
@[simp] theorem initial_repeatThresh (cfg : Config.Params) (nv : Memory) (inbox : List Arrival) :
    (State.initial cfg nv inbox).repeatThresh = 0 := rfl
@[simp] theorem initial_repeatTimeout (cfg : Config.Params) (nv : Memory) (inbox : List Arrival) :
    (State.initial cfg nv inbox).repeatTimeout = 0 := rfl
@[simp] theorem initial_repeatCnt (cfg : Config.Params) (nv : Memory) (inbox : List Arrival) :
    (State.initial cfg nv inbox).repeatCnt = 0 := rfl
@[simp] theorem initial_lastPktTime (cfg : Config.Params) (nv : Memory) (inbox : List Arrival) :
    (State.initial cfg nv inbox).lastPktTime = 0 := rfl
@[simp] theorem initial_pairTimeout (cfg : Config.Params) (nv : Memory) (inbox : List Arrival) :
    (State.initial cfg nv inbox).pairTimeout = 0 := rfl
@[simp] theorem initial_pairStart (cfg : Config.Params) (nv : Memory) (inbox : List Arrival) :
    (State.initial cfg nv inbox).pairStart = 0 := rfl
@[simp] theorem initial_pairCount (cfg : Config.Params) (nv : Memory) (inbox : List Arrival) :
    (State.initial cfg nv inbox).pairCount = 0 := rfl
@[simp] theorem initial_pair (cfg : Config.Params) (nv : Memory) (inbox : List Arrival) :
    (State.initial cfg nv inbox).pair = List.replicate cfg.maxPairs (Vector.replicate 8 0) := rfl
@[simp] theorem initial_statsEn (cfg : Config.Params) (nv : Memory) (inbox : List Arrival) :
    (State.initial cfg nv inbox).statsEn = false := rfl
@[simp] theorem initial_stat (cfg : Config.Params) (nv : Memory) (inbox : List Arrival) :
    (State.initial cfg nv inbox).stat = cfg.statsDefault := rfl
@[simp] theorem initial_nv (cfg : Config.Params) (nv : Memory) (inbox : List Arrival) :
    (State.initial cfg nv inbox).nv = nv := rfl
@[simp] theorem initial_cfg (cfg : Config.Params) (nv : Memory) (inbox : List Arrival) :
    (State.initial cfg nv inbox).cfg = cfg := rfl
@[simp] theorem initial_inbox (cfg : Config.Params) (nv : Memory) (inbox : List Arrival) :
    (State.initial cfg nv inbox).inbox = inbox := rfl
@[simp] theorem initial_resp (cfg : Config.Params) (nv : Memory) (inbox : List Arrival) :
    (State.initial cfg nv inbox).resp = none := rfl
@[simp] theorem initial_nvPort (cfg : Config.Params) (nv : Memory) (inbox : List Arrival) :
    (State.initial cfg nv inbox).nvPort = [] := rfl

@[simp] theorem resetCore_enabled (s : State) : (resetCore s).enabled = false := rfl
@[simp] theorem resetCore_prevTs (s : State) : (resetCore s).prevTs = 0 := rfl
@[simp] theorem resetCore_dstate (s : State) : (resetCore s).dstate = .idle := rfl
@[simp] theorem resetCore_acc (s : State) : (resetCore s).acc = 0 := rfl
@[simp] theorem resetCore_bitCnt (s : State) : (resetCore s).bitCnt = 0 := rfl
@[simp] theorem resetCore_byteCnt (s : State) : (resetCore s).byteCnt = 0 := rfl
@[simp] theorem resetCore_buf (s : State) : (resetCore s).buf = Vector.replicate 10 0 := rfl
@[simp] theorem resetCore_msg (s : State) : (resetCore s).msg = Vector.replicate 10 0 := rfl
@[simp] theorem resetCore_msgReady (s : State) : (resetCore s).msgReady = false := rfl
@[simp] theorem resetCore_repeatThresh (s : State) : (resetCore s).repeatThresh = 0 := rfl
@[simp] theorem resetCore_repeatTimeout (s : State) : (resetCore s).repeatTimeout = 0 := rfl
@[simp] theorem resetCore_repeatCnt (s : State) : (resetCore s).repeatCnt = 0 := rfl
@[simp] theorem resetCore_lastPktTime (s : State) : (resetCore s).lastPktTime = 0 := rfl
@[simp] theorem resetCore_pairTimeout (s : State) : (resetCore s).pairTimeout = 0 := rfl
@[simp] theorem resetCore_pairStart (s : State) : (resetCore s).pairStart = 0 := rfl
@[simp] theorem resetCore_pairCount (s : State) : (resetCore s).pairCount = 0 := rfl
@[simp] theorem resetCore_pair (s : State) : (resetCore s).pair = List.replicate s.cfg.maxPairs (Vector.replicate 8 0) := rfl
@[simp] theorem resetCore_statsEn (s : State) : (resetCore s).statsEn = false := rfl
@[simp] theorem resetCore_stat (s : State) : (resetCore s).stat = s.cfg.statsDefault := rfl
@[simp] theorem resetCore_nv (s : State) : (resetCore s).nv = s.nv := rfl
@[simp] theorem resetCore_cfg (s : State) : (resetCore s).cfg = s.cfg := rfl
@[simp] theorem resetCore_inbox (s : State) : (resetCore s).inbox = s.inbox := rfl
@[simp] theorem resetCore_resp (s : State) : (resetCore s).resp = none := rfl
@[simp] theorem resetCore_nvPort (s : State) : (resetCore s).nvPort = [] := rfl

/-! ### The statistics block changes STAT alone -/

/-- What a sample does: only STAT, and only while enabled (R191). -/
theorem statsUpdate_eq (c : StatClass) (dur : Time) (s : State) :
    statsUpdate c dur s = { s with stat := if s.statsEn then sampleClass s.stat c (dur.setWidth 16) else s.stat } := by
  unfold statsUpdate
  by_cases h : s.statsEn = true
  · rw [if_pos h, if_pos h]
  · rw [if_neg h, if_neg h]

@[simp] theorem statsUpdate_enabled (c : StatClass) (dur : Time) (s : State) : (statsUpdate c dur s).enabled = s.enabled := by
  rw [statsUpdate_eq]
@[simp] theorem statsUpdate_prevTs (c : StatClass) (dur : Time) (s : State) : (statsUpdate c dur s).prevTs = s.prevTs := by
  rw [statsUpdate_eq]
@[simp] theorem statsUpdate_dstate (c : StatClass) (dur : Time) (s : State) : (statsUpdate c dur s).dstate = s.dstate := by
  rw [statsUpdate_eq]
@[simp] theorem statsUpdate_acc (c : StatClass) (dur : Time) (s : State) : (statsUpdate c dur s).acc = s.acc := by
  rw [statsUpdate_eq]
@[simp] theorem statsUpdate_bitCnt (c : StatClass) (dur : Time) (s : State) : (statsUpdate c dur s).bitCnt = s.bitCnt := by
  rw [statsUpdate_eq]
@[simp] theorem statsUpdate_byteCnt (c : StatClass) (dur : Time) (s : State) : (statsUpdate c dur s).byteCnt = s.byteCnt := by
  rw [statsUpdate_eq]
@[simp] theorem statsUpdate_buf (c : StatClass) (dur : Time) (s : State) : (statsUpdate c dur s).buf = s.buf := by
  rw [statsUpdate_eq]
@[simp] theorem statsUpdate_msg (c : StatClass) (dur : Time) (s : State) : (statsUpdate c dur s).msg = s.msg := by
  rw [statsUpdate_eq]
@[simp] theorem statsUpdate_msgReady (c : StatClass) (dur : Time) (s : State) : (statsUpdate c dur s).msgReady = s.msgReady := by
  rw [statsUpdate_eq]
@[simp] theorem statsUpdate_repeatThresh (c : StatClass) (dur : Time) (s : State) : (statsUpdate c dur s).repeatThresh = s.repeatThresh := by
  rw [statsUpdate_eq]
@[simp] theorem statsUpdate_repeatTimeout (c : StatClass) (dur : Time) (s : State) : (statsUpdate c dur s).repeatTimeout = s.repeatTimeout := by
  rw [statsUpdate_eq]
@[simp] theorem statsUpdate_repeatCnt (c : StatClass) (dur : Time) (s : State) : (statsUpdate c dur s).repeatCnt = s.repeatCnt := by
  rw [statsUpdate_eq]
@[simp] theorem statsUpdate_lastPktTime (c : StatClass) (dur : Time) (s : State) : (statsUpdate c dur s).lastPktTime = s.lastPktTime := by
  rw [statsUpdate_eq]
@[simp] theorem statsUpdate_pairTimeout (c : StatClass) (dur : Time) (s : State) : (statsUpdate c dur s).pairTimeout = s.pairTimeout := by
  rw [statsUpdate_eq]
@[simp] theorem statsUpdate_pairStart (c : StatClass) (dur : Time) (s : State) : (statsUpdate c dur s).pairStart = s.pairStart := by
  rw [statsUpdate_eq]
@[simp] theorem statsUpdate_pairCount (c : StatClass) (dur : Time) (s : State) : (statsUpdate c dur s).pairCount = s.pairCount := by
  rw [statsUpdate_eq]
@[simp] theorem statsUpdate_pair (c : StatClass) (dur : Time) (s : State) : (statsUpdate c dur s).pair = s.pair := by
  rw [statsUpdate_eq]
@[simp] theorem statsUpdate_statsEn (c : StatClass) (dur : Time) (s : State) : (statsUpdate c dur s).statsEn = s.statsEn := by
  rw [statsUpdate_eq]
@[simp] theorem statsUpdate_nv (c : StatClass) (dur : Time) (s : State) : (statsUpdate c dur s).nv = s.nv := by
  rw [statsUpdate_eq]
@[simp] theorem statsUpdate_cfg (c : StatClass) (dur : Time) (s : State) : (statsUpdate c dur s).cfg = s.cfg := by
  rw [statsUpdate_eq]
@[simp] theorem statsUpdate_inbox (c : StatClass) (dur : Time) (s : State) : (statsUpdate c dur s).inbox = s.inbox := by
  rw [statsUpdate_eq]
@[simp] theorem statsUpdate_resp (c : StatClass) (dur : Time) (s : State) : (statsUpdate c dur s).resp = s.resp := by
  rw [statsUpdate_eq]
@[simp] theorem statsUpdate_nvPort (c : StatClass) (dur : Time) (s : State) : (statsUpdate c dur s).nvPort = s.nvPort := by
  rw [statsUpdate_eq]

end Sys2Proof.Machine
end

