-- ==== Sys2Proof/Laws/Ops.lean ====
section
/-! SUPPORT. One lemma for each shared operation that says once everything it can do. Later proofs cite these and do
not unfold the operations. -/

namespace Sys2Proof.Machine

/-! ### Adding an entry -/

/-- The eight writes of an appended entry (R68). -/
def entryWrites (p : Config.Params) (k : Nat) (e : Entry) : List NvAccess :=
  entryIndices.map fun (i : Fin 8) => .write (nvAddr p (entryOffset k i)) e[i]

/-- The nine writes of an append: the entry, then the count (R68, R173). -/
def appendWrites (p : Config.Params) (k : Nat) (e : Entry) (n : Byte) : List NvAccess :=
  entryWrites p k e ++ [.write (nvAddr p 0) n]

theorem persistEntry_eq (s : State) (k : Nat) (e : Entry) :
    persistEntry s k e =
      { s with nv := (entryWrites s.cfg k e).foldl applyAccess s.nv, nvPort := s.nvPort ++ entryWrites s.cfg k e } := by
  simp [persistEntry, entryWrites, entryIndices, nvWrite, applyAccess]

/-- What an append does (R173). -/
theorem addEntry_append (s : State) (e : Entry) (hm : matchAny s e = false) (hc : s.pairCount.toNat < s.cfg.maxPairs) :
    addEntry s e =
      { s with
        pair := s.pair.set s.pairCount.toNat e
        pairCount := s.pairCount + 1
        nv := (appendWrites s.cfg s.pairCount.toNat e (s.pairCount + 1)).foldl applyAccess s.nv
        nvPort := s.nvPort ++ appendWrites s.cfg s.pairCount.toNat e (s.pairCount + 1) } := by
  simp [addEntry, hm, hc, persistEntry_eq, appendWrites, nvWrite, applyAccess]

/-- A duplicate, or a full store: nothing at all (R173). -/
theorem addEntry_noop (s : State) (e : Entry) (h : matchAny s e = true ∨ s.cfg.maxPairs ≤ s.pairCount.toNat) :
    addEntry s e = s := by
  rcases h with h | h
  · simp [addEntry, h]
  · simp [addEntry, Nat.not_lt.2 h]

/-- `add_entry` appends or does nothing. -/
theorem addEntry_cases (s : State) (e : Entry) :
    addEntry s e = s ∨
    (matchAny s e = false ∧ s.pairCount.toNat < s.cfg.maxPairs ∧
      addEntry s e =
        { s with
          pair := s.pair.set s.pairCount.toNat e
          pairCount := s.pairCount + 1
          nv := (appendWrites s.cfg s.pairCount.toNat e (s.pairCount + 1)).foldl applyAccess s.nv
          nvPort := s.nvPort ++ appendWrites s.cfg s.pairCount.toNat e (s.pairCount + 1) }) := by
  by_cases h : matchAny s e = true ∨ s.cfg.maxPairs ≤ s.pairCount.toNat
  · exact .inl (addEntry_noop s e h)
  · obtain ⟨h1, h2⟩ := not_or.1 h
    have h1 : matchAny s e = false := by simpa using h1
    exact .inr ⟨h1, Nat.lt_of_not_le h2, addEntry_append s e h1 (Nat.lt_of_not_le h2)⟩

/-- `add_entry` writes the pair store and its mirror, and nothing else (R173). -/
theorem addEntry_frame (s : State) (e : Entry) :
    addEntry s e =
      { s with
        pair := (addEntry s e).pair
        pairCount := (addEntry s e).pairCount
        nv := (addEntry s e).nv
        nvPort := (addEntry s e).nvPort } := by
  rcases addEntry_cases s e with h | ⟨-, -, h⟩ <;> rw [h]

@[simp] theorem addEntry_enabled (s : State) (e : Entry) : (addEntry s e).enabled = s.enabled := by rw [addEntry_frame]

@[simp] theorem addEntry_prevTs (s : State) (e : Entry) : (addEntry s e).prevTs = s.prevTs := by rw [addEntry_frame]

@[simp] theorem addEntry_dstate (s : State) (e : Entry) : (addEntry s e).dstate = s.dstate := by rw [addEntry_frame]

@[simp] theorem addEntry_acc (s : State) (e : Entry) : (addEntry s e).acc = s.acc := by rw [addEntry_frame]

@[simp] theorem addEntry_bitCnt (s : State) (e : Entry) : (addEntry s e).bitCnt = s.bitCnt := by rw [addEntry_frame]

@[simp] theorem addEntry_byteCnt (s : State) (e : Entry) : (addEntry s e).byteCnt = s.byteCnt := by rw [addEntry_frame]

@[simp] theorem addEntry_buf (s : State) (e : Entry) : (addEntry s e).buf = s.buf := by rw [addEntry_frame]

@[simp] theorem addEntry_msg (s : State) (e : Entry) : (addEntry s e).msg = s.msg := by rw [addEntry_frame]

@[simp] theorem addEntry_msgReady (s : State) (e : Entry) : (addEntry s e).msgReady = s.msgReady := by rw [addEntry_frame]

@[simp] theorem addEntry_repeatThresh (s : State) (e : Entry) : (addEntry s e).repeatThresh = s.repeatThresh := by rw [addEntry_frame]

@[simp] theorem addEntry_repeatTimeout (s : State) (e : Entry) : (addEntry s e).repeatTimeout = s.repeatTimeout := by rw [addEntry_frame]

@[simp] theorem addEntry_repeatCnt (s : State) (e : Entry) : (addEntry s e).repeatCnt = s.repeatCnt := by rw [addEntry_frame]

@[simp] theorem addEntry_lastPktTime (s : State) (e : Entry) : (addEntry s e).lastPktTime = s.lastPktTime := by rw [addEntry_frame]

@[simp] theorem addEntry_pairTimeout (s : State) (e : Entry) : (addEntry s e).pairTimeout = s.pairTimeout := by rw [addEntry_frame]

@[simp] theorem addEntry_pairStart (s : State) (e : Entry) : (addEntry s e).pairStart = s.pairStart := by rw [addEntry_frame]

@[simp] theorem addEntry_statsEn (s : State) (e : Entry) : (addEntry s e).statsEn = s.statsEn := by rw [addEntry_frame]

@[simp] theorem addEntry_stat (s : State) (e : Entry) : (addEntry s e).stat = s.stat := by rw [addEntry_frame]

@[simp] theorem addEntry_cfg (s : State) (e : Entry) : (addEntry s e).cfg = s.cfg := by rw [addEntry_frame]

@[simp] theorem addEntry_inbox (s : State) (e : Entry) : (addEntry s e).inbox = s.inbox := by rw [addEntry_frame]

@[simp] theorem addEntry_resp (s : State) (e : Entry) : (addEntry s e).resp = s.resp := by rw [addEntry_frame]

/-! ### Restoring the store -/

/-- The eight reads of one entry (R68). -/
def entryReads (s : State) (k : Nat) : List NvAccess :=
  entryIndices.map fun (i : Fin 8) => .read (nvAddr s.cfg (entryOffset k i)) (nvByte s (entryOffset k i))

theorem nvEntry_get (s : State) (k : Nat) (i : Fin 8) : (nvEntry s k)[i] = nvByte s (entryOffset k i) := by
  fin_cases i <;> rfl

theorem loadByte_eq (k : Nat) (s : State) (i : Fin 8) :
    loadByte k s i =
      { s with
        pair := s.pair.modify k (fun e => e.set i (nvByte s (entryOffset k i)))
        nvPort := s.nvPort ++ [.read (nvAddr s.cfg (entryOffset k i)) (nvByte s (entryOffset k i))] } := rfl

theorem loadEntry_eq (s : State) (k : Nat) :
    loadEntry s k =
      { s with pair := s.pair.modify k (fun _ => nvEntry s k), nvPort := s.nvPort ++ entryReads s k } := by
  have hset : ∀ (e : Entry) (b0 b1 b2 b3 b4 b5 b6 b7 : Byte),
      ((((((((e.set 0 b0).set 1 b1).set 2 b2).set 3 b3).set 4 b4).set 5 b5).set 6 b6).set 7 b7)
        = #v[b0, b1, b2, b3, b4, b5, b6, b7] := by
    intro e b0 b1 b2 b3 b4 b5 b6 b7
    ext i hi
    match i, hi with
    | 0, _ | 1, _ | 2, _ | 3, _ | 4, _ | 5, _ | 6, _ | 7, _ => simp
  simp only [loadEntry, entryIndices, List.foldl_cons, List.foldl_nil, loadByte_eq, List.modify_modify_eq, entryReads,
    List.map_cons, List.map_nil, List.append_assoc, List.cons_append, List.nil_append]
  congr 1
  congr 1
  funext e
  exact hset e _ _ _ _ _ _ _ _

/-- The reads of the entries below `n` (R68). -/
def restoreReads (s : State) (n : Nat) : List NvAccess := (List.range n).flatMap (entryReads s)

/-- Restoring reads NV and writes the register file, and nothing else. -/
theorem loadEntries_eq (s : State) (n : Nat) :
    loadEntries s n =
      { s with pair := (loadEntries s n).pair, nvPort := s.nvPort ++ restoreReads s n } := by
  induction n with
  | zero => simp [loadEntries, restoreReads]
  | succ n ih =>
    have hstep : loadEntries s (n + 1) = loadEntry (loadEntries s n) n := by
      simp [loadEntries, List.range_succ]
    rw [hstep, loadEntry_eq, ih]
    simp [restoreReads, List.range_succ, entryReads, nvByte]

theorem loadEntries_pair_succ (s : State) (n : Nat) :
    (loadEntries s (n + 1)).pair = (loadEntries s n).pair.modify n (fun _ => nvEntry s n) := by
  have hstep : loadEntries s (n + 1) = loadEntry (loadEntries s n) n := by
    simp [loadEntries, List.range_succ]
  have hnv : nvEntry (loadEntries s n) n = nvEntry s n := by rw [loadEntries_eq]; rfl
  rw [hstep, loadEntry_eq]
  show (loadEntries s n).pair.modify n (fun _ => nvEntry (loadEntries s n) n) = _
  rw [hnv]

@[simp] theorem loadEntries_pair_length (s : State) (n : Nat) : (loadEntries s n).pair.length = s.pair.length := by
  induction n with
  | zero => rfl
  | succ n ih => rw [loadEntries_pair_succ, List.length_modify, ih]

/-- The register file after restoring `n` entries (R175). -/
theorem loadEntries_pair_get (s : State) (n k : Nat) :
    (loadEntries s n).pair[k]? = if k < n then s.pair[k]?.map (fun _ => nvEntry s k) else s.pair[k]? := by
  induction n with
  | zero => simp [loadEntries]
  | succ n ih =>
    rw [loadEntries_pair_succ, List.getElem?_modify, ih]
    by_cases hk : n = k
    · subst hk; simp
    · by_cases hlt : k < n
      · simp [hk, hlt, Nat.lt_succ_of_lt hlt]
      · simp [hk, hlt, show ¬ k < n + 1 by omega]

/-- An entry of the register file after restoring `n` of them. -/
theorem loadEntries_pair_getD (s : State) (n k : Nat) (d : Entry) :
    (loadEntries s n).pair.getD k d = if k < n ∧ k < s.pair.length then nvEntry s k else s.pair.getD k d := by
  rw [List.getD_eq_getElem?_getD, List.getD_eq_getElem?_getD, loadEntries_pair_get]
  by_cases hl : k < s.pair.length
  · by_cases hk : k < n <;> simp [hk, hl]
  · simp [hl]

/-- `restore()` with its one read of the count written out. -/
theorem restore_eq (s : State) :
    restore s =
      if (nvByte s 0).toNat > s.cfg.maxPairs then nvWrite { (nvRead s 0).2 with pairCount := 0 } 0 0
      else loadEntries { (nvRead s 0).2 with pairCount := nvByte s 0 } (nvByte s 0).toNat := rfl

/-- Everything INIT's restore can do (R175). -/
theorem restore_cases (s : State) :
    ((nvByte s 0).toNat ≤ s.cfg.maxPairs ∧
      restore s =
        { s with
          pairCount := nvByte s 0
          pair := (loadEntries s (nvByte s 0).toNat).pair
          nvPort := s.nvPort ++ [.read (nvAddr s.cfg 0) (nvByte s 0)] ++ restoreReads s (nvByte s 0).toNat }) ∨
    (s.cfg.maxPairs < (nvByte s 0).toNat ∧
      restore s =
        { s with
          pairCount := 0
          nv := s.nv.write (nvAddr s.cfg 0).toNat 0
          nvPort := s.nvPort ++ [.read (nvAddr s.cfg 0) (nvByte s 0), .write (nvAddr s.cfg 0) 0] }) := by
  by_cases h : s.cfg.maxPairs < (nvByte s 0).toNat
  · exact .inr ⟨h, by rw [restore_eq, if_pos h]; simp [nvWrite, nvRead]⟩
  · refine .inl ⟨Nat.le_of_not_lt h, ?_⟩
    have hp : ∀ (t : State) (n : Nat), t.nv = s.nv → t.cfg = s.cfg → t.pair = s.pair →
        (loadEntries t n).pair = (loadEntries s n).pair := by
      intro t n h1 h2 h3
      refine List.ext_getElem? fun k => ?_
      rw [loadEntries_pair_get, loadEntries_pair_get, h3]
      simp [nvEntry, nvByte, h1, h2]
    have hr : ∀ (t : State) (n : Nat), t.nv = s.nv → t.cfg = s.cfg → restoreReads t n = restoreReads s n := by
      intro t n h1 h2
      unfold restoreReads
      congr 1
      funext k
      simp [entryReads, nvByte, h1, h2]
    have he : ∀ (t : State) (n : Nat), t.nv = s.nv → t.cfg = s.cfg → t.pair = s.pair →
        loadEntries t n =
          { t with pair := (loadEntries s n).pair, nvPort := t.nvPort ++ restoreReads s n } := by
      intro t n h1 h2 h3
      rw [loadEntries_eq t n, hp t n h1 h2 h3, hr t n h1 h2]
    rw [restore_eq, if_neg h]
    exact he { (nvRead s 0).2 with pairCount := nvByte s 0 } _ rfl rfl rfl

/-! ### Finalization -/

/-- The outcomes of a finalization: ineligible, captured, or put to the membership test (R155 to R160). -/
theorem finalize_cases (ms : Time) (s : State) :
    (eligible (recordCandidate ms s) = false ∧ finalize ms s = recordCandidate ms s) ∨
    (eligible (recordCandidate ms s) = true ∧ pairingActive s = true ∧
      windowExceeded (sub32 ms s.pairStart) s.pairTimeout = false ∧
      finalize ms s = addEntry { recordCandidate ms s with pairTimeout := 0 } (pairBytes s.buf)) ∨
    (eligible (recordCandidate ms s) = true ∧
      (pairingActive s = false ∨ windowExceeded (sub32 ms s.pairStart) s.pairTimeout = true) ∧
      finalize ms s =
        { recordCandidate ms s with pairTimeout := 0, msgReady := s.msgReady || member s (pairBytes s.buf) }) := by
  have hpub : ∀ t : State, t.pairTimeout = 0 →
      publish t = { t with pairTimeout := 0, msgReady := t.msgReady || member t (pairBytes t.msg) } := by
    intro t ht
    have hw : t = { t with pairTimeout := 0 } := by rw [← ht]
    unfold publish
    by_cases h : member t (pairBytes t.msg) = true
    · rw [if_pos h]; rw [hw]; simp only [hw ▸ h, Bool.or_true]
    · rw [if_neg h]; rw [hw]
      have : member t (pairBytes t.msg) = false := by simpa using h
      simp only [hw ▸ this, Bool.or_false]
  cases he : eligible (recordCandidate ms s)
  · exact .inl ⟨rfl, by simp [finalize, he]⟩
  · right
    have hf : finalize ms s = pairingStep ms (recordCandidate ms s) := by simp [finalize, he]
    have ha : pairingActive (recordCandidate ms s) = pairingActive s := rfl
    cases hp : pairingActive s
    · right
      refine ⟨rfl, .inl rfl, ?_⟩
      have h0 : s.pairTimeout = 0 := by simpa [pairingActive] using hp
      rw [hf, pairingStep, ha, hp]
      exact hpub _ h0
    · cases hw : windowExceeded (sub32 ms s.pairStart) s.pairTimeout
      · left
        refine ⟨rfl, rfl, rfl, ?_⟩
        rw [hf, pairingStep, ha, hp]
        simp [hw, capture]
      · right
        refine ⟨rfl, .inr rfl, ?_⟩
        rw [hf, pairingStep, ha, hp]
        simp only [recordCandidate_pairStart, recordCandidate_pairTimeout, hw, if_true]
        exact hpub { recordCandidate ms s with pairTimeout := 0 } rfl

/-- What a finalization may write, and the three registers it always writes (R154, R160). -/
theorem finalize_frame (ms : Time) (s : State) :
    finalize ms s =
      { s with
        repeatCnt := nextRepeatCnt ms s
        lastPktTime := ms
        msg := s.buf
        msgReady := (finalize ms s).msgReady
        pairTimeout := (finalize ms s).pairTimeout
        pair := (finalize ms s).pair
        pairCount := (finalize ms s).pairCount
        nv := (finalize ms s).nv
        nvPort := (finalize ms s).nvPort } := by
  rcases finalize_cases ms s with ⟨-, h⟩ | ⟨-, -, -, h⟩ | ⟨-, -, h⟩ <;> rw [h]
  · rfl
  · rw [addEntry_frame]; rfl
  · rfl

@[simp] theorem finalize_enabled (ms : Time) (s : State) : (finalize ms s).enabled = s.enabled := by rw [finalize_frame]

@[simp] theorem finalize_prevTs (ms : Time) (s : State) : (finalize ms s).prevTs = s.prevTs := by rw [finalize_frame]

@[simp] theorem finalize_dstate (ms : Time) (s : State) : (finalize ms s).dstate = s.dstate := by rw [finalize_frame]

@[simp] theorem finalize_acc (ms : Time) (s : State) : (finalize ms s).acc = s.acc := by rw [finalize_frame]

@[simp] theorem finalize_bitCnt (ms : Time) (s : State) : (finalize ms s).bitCnt = s.bitCnt := by rw [finalize_frame]

@[simp] theorem finalize_byteCnt (ms : Time) (s : State) : (finalize ms s).byteCnt = s.byteCnt := by rw [finalize_frame]

@[simp] theorem finalize_buf (ms : Time) (s : State) : (finalize ms s).buf = s.buf := by rw [finalize_frame]

@[simp] theorem finalize_msg (ms : Time) (s : State) : (finalize ms s).msg = s.buf := by rw [finalize_frame]

@[simp] theorem finalize_repeatThresh (ms : Time) (s : State) : (finalize ms s).repeatThresh = s.repeatThresh := by rw [finalize_frame]

@[simp] theorem finalize_repeatTimeout (ms : Time) (s : State) : (finalize ms s).repeatTimeout = s.repeatTimeout := by rw [finalize_frame]

@[simp] theorem finalize_repeatCnt (ms : Time) (s : State) : (finalize ms s).repeatCnt = nextRepeatCnt ms s := by rw [finalize_frame]

@[simp] theorem finalize_lastPktTime (ms : Time) (s : State) : (finalize ms s).lastPktTime = ms := by rw [finalize_frame]

@[simp] theorem finalize_pairStart (ms : Time) (s : State) : (finalize ms s).pairStart = s.pairStart := by rw [finalize_frame]

@[simp] theorem finalize_statsEn (ms : Time) (s : State) : (finalize ms s).statsEn = s.statsEn := by rw [finalize_frame]

@[simp] theorem finalize_stat (ms : Time) (s : State) : (finalize ms s).stat = s.stat := by rw [finalize_frame]

@[simp] theorem finalize_cfg (ms : Time) (s : State) : (finalize ms s).cfg = s.cfg := by rw [finalize_frame]

@[simp] theorem finalize_inbox (ms : Time) (s : State) : (finalize ms s).inbox = s.inbox := by rw [finalize_frame]

@[simp] theorem finalize_resp (ms : Time) (s : State) : (finalize ms s).resp = s.resp := by rw [finalize_frame]

/-! ### The FSM -/

/-- What the completion check does (R134, R135). -/
theorem completionCheck_cases (ms : Time) (s : State) :
    (s.bitCnt.toNat < 8 ∧ completionCheck ms s = s) ∨
    (8 ≤ s.bitCnt.toNat ∧ s.byteCnt + 1 ≠ 10 ∧
      completionCheck ms s =
        { s with
          buf := s.buf.setIfInBounds s.byteCnt.toNat s.acc
          byteCnt := s.byteCnt + 1
          bitCnt := 0
          dstate := .bsf }) ∨
    (8 ≤ s.bitCnt.toNat ∧ s.byteCnt + 1 = 10 ∧
      completionCheck ms s =
        { finalize ms
            { s with buf := s.buf.setIfInBounds s.byteCnt.toNat s.acc, byteCnt := s.byteCnt + 1, bitCnt := 0 }
          with dstate := .idle }) := by
  by_cases h : 8 ≤ s.bitCnt.toNat
  · by_cases h10 : s.byteCnt + 1 = 10
    · exact .inr (.inr ⟨h, h10, by simp only [completionCheck]; rw [if_pos h, if_pos h10]⟩)
    · exact .inr (.inl ⟨h, h10, by simp only [completionCheck]; rw [if_pos h, if_neg h10]⟩)
  · exact .inl ⟨Nat.lt_of_not_le h, by simp only [completionCheck]; rw [if_neg h]⟩

/-! ### The ports -/

/-- Everything a step can do: nothing, one operation, a reset, or an operation cut short by reset. -/
theorem serveNext_cases (s : State) :
    (s.inbox = [] ∧ serveNext s = .next s) ∨
    ∃ a rest, s.inbox = a :: rest ∧
      ((a.reset = .released ∧ serveNext s = perform a (clearOutputs { s with inbox := rest })) ∨
       (a.reset = .asserted ∧ serveNext s = .next (resetCore (clearOutputs { s with inbox := rest }))) ∨
       ∃ n, a.reset = .during n ∧ serveNext s = performCut n a (clearOutputs { s with inbox := rest })) := by
  cases h : s.inbox with
  | nil => exact .inl ⟨rfl, by simp [serveNext, h]⟩
  | cons a rest =>
    refine .inr ⟨a, rest, rfl, ?_⟩
    have hs : serveNext s = serve a (clearOutputs { s with inbox := rest }) := by simp [serveNext, h]
    cases hr : a.reset with
    | released => exact .inl ⟨rfl, by rw [hs, serve, hr]⟩
    | asserted => exact .inr (.inl ⟨rfl, by rw [hs, serve, hr]⟩)
    | during n => exact .inr (.inr ⟨n, rfl, by rw [hs, serve, hr]⟩)

/-- What a cut operation leaves: the registers of reset, and NV as far as the operation got (R66). -/
theorem cutShort_eq (n : Nat) (s t : State) :
    cutShort n s t =
      { State.initial s.cfg ((t.nvPort.take n).foldl applyAccess s.nv) s.inbox with nvPort := t.nvPort.take n } := rfl

end Sys2Proof.Machine
end

