-- ==== Sys2Proof/Laws/PairStore.lean ====
section
/-! SUPPORT. What the store holds after the writes of one append (R68, R173). -/

namespace Sys2Proof.Machine

/-- The address an access writes; none for a read. -/
def NvAccess.writtenTo (a : NvAccess) : Option NvAddr :=
  match a with
  | .read _ _ => none
  | .write addr _ => some addr

/-- Accesses that do not write an address leave the byte there. -/
theorem read_foldl_applyAccess_other (l : List NvAccess) (m : Memory) (k : Nat)
    (h : ∀ x ∈ l, ∀ addr, x.writtenTo = some addr → k ≠ addr.toNat) :
    (l.foldl applyAccess m).read k = m.read k := by
  induction l generalizing m with
  | nil => rfl
  | cons a rest ih =>
    rw [List.foldl_cons, ih _ fun x hx => h x (List.mem_cons_of_mem _ hx)]
    cases a with
    | read _ _ => rfl
    | write addr b => exact Memory.read_write_other m _ _ b (h _ (List.mem_cons_self ..) addr rfl)

/-- The entry bytes lie inside the range of R61. -/
theorem entryOffset_lt (n k : Nat) (i : Fin 8) (hk : k < n) : entryOffset k i < 1 + 8 * n := by
  unfold entryOffset; omega

/-- Different places of the layout have different offsets (R61). -/
theorem entryOffset_inj (j k : Nat) (i l : Fin 8) (h : entryOffset j i = entryOffset k l) : j = k ∧ i = l := by
  unfold entryOffset at h; omega

/-- The eight writes of an entry touch no address but the entry's own. -/
theorem entryWrites_writtenTo (p : Config.Params) (k : Nat) (e : Entry) (x : NvAccess) (hx : x ∈ entryWrites p k e)
    (addr : NvAddr) (ha : x.writtenTo = some addr) : ∃ i : Fin 8, addr = nvAddr p (entryOffset k i) := by
  obtain ⟨i, -, rfl⟩ := List.mem_map.1 hx
  exact ⟨i, (Option.some.inj ha).symm⟩

/-- After the eight writes of an entry below 8191 its bytes stand in the store. -/
theorem read_entryWrites (p : Config.Params) (k : Nat) (e : Entry) (m : Memory) (hm : m.wf = true) (hk : k < 8191)
    (i : Fin 8) : ((entryWrites p k e).foldl applyAccess m).read (nvAddr p (entryOffset k i)).toNat = e[i] := by
  have hne : ∀ a b : Fin 8, a ≠ b →
      (nvAddr p (entryOffset k a)).toNat ≠ (nvAddr p (entryOffset k b)).toNat := by
    intro a b hab h
    have := nvAddr_inj p _ _ (by unfold entryOffset; omega) (by unfold entryOffset; omega) h
    exact hab (entryOffset_inj _ _ _ _ this).2
  have key : ∀ (l : List (Fin 8)) (m : Memory), m.wf = true → l.Nodup → i ∈ l →
      ((l.map fun (j : Fin 8) => NvAccess.write (nvAddr p (entryOffset k j)) e[j]).foldl applyAccess m).read
        (nvAddr p (entryOffset k i)).toNat = e[i] := by
    intro l
    induction l with
    | nil => intro _ _ _ h; cases h
    | cons j rest ih =>
      intro m hm hn hi
      obtain ⟨hj, hn'⟩ := List.nodup_cons.1 hn
      rw [List.map_cons, List.foldl_cons]
      rcases List.mem_cons.1 hi with rfl | hi
      · rw [read_foldl_applyAccess_other]
        · exact Memory.read_write_same m _ _ hm
        · intro x hx addr ha
          obtain ⟨l, hl, rfl⟩ := List.mem_map.1 hx
          obtain rfl := Option.some.inj ha
          exact hne _ _ fun h => hj (h ▸ hl)
      · exact ih _ (applyAccess_wf m _ hm) hn' hi
  have hall : ∀ j : Fin 8, j ∈ entryIndices := by decide
  exact key entryIndices m hm (by decide) (hall i)

/-- What the store holds after an append: the entry, the count, and every other byte as before (R173). -/
theorem appendWrites_cases (p : Config.Params) (k : Nat) (e : Entry) (n : Byte) (m : Memory) (hm : m.wf = true)
    (hk : k < 8191) :
    let m' := (appendWrites p k e n).foldl applyAccess m
    m'.read (nvAddr p 0).toNat = n ∧
    (∀ i : Fin 8, m'.read (nvAddr p (entryOffset k i)).toNat = e[i]) ∧
    ∀ a : Nat, a ≠ (nvAddr p 0).toNat → (∀ i : Fin 8, a ≠ (nvAddr p (entryOffset k i)).toNat) → m'.read a = m.read a := by
  have hsplit : (appendWrites p k e n).foldl applyAccess m =
      ((entryWrites p k e).foldl applyAccess m).write (nvAddr p 0).toNat n := by
    simp [appendWrites, applyAccess]
  simp only [hsplit]
  refine ⟨Memory.read_write_same _ _ _ (foldl_applyAccess_wf _ _ hm), fun i => ?_, fun a h0 hi => ?_⟩
  · rw [Memory.read_write_other]
    · exact read_entryWrites p k e m hm hk i
    · intro h
      have := nvAddr_inj p _ _ (by unfold entryOffset; omega) (by omega) h
      unfold entryOffset at this
      omega
  · rw [Memory.read_write_other _ _ _ _ h0, read_foldl_applyAccess_other]
    intro x hx addr ha
    obtain ⟨i, rfl⟩ := entryWrites_writtenTo p k e x hx addr ha
    exact hi i

end Sys2Proof.Machine
end

