-- ==== Sys2Proof/Laws/PerInstr.lean ====
section
/-! SUPPORT. Statements made one instruction at a time. `PortAndCode`: the canonical word of an operation goes to the
port of R100 or R200, and carries the code that the opcode map gives the operation (R85). -/

namespace Sys2Proof.Laws.PortAndCode

/-- The column op of the opcode map (R85); none for EDGE, which is not a host command. -/
def code (i : Instr) : Option Nat :=
  match i with
  | .edge _ _ _ => none
  | .isrdy => some 0x1
  | .getmsg => some 0x3
  | .since _ => some 0x4
  | .setrep _ _ => some 0x5
  | .addpair _ => some 0x6
  | .pairbeg _ _ => some 0x7
  | .getpair _ => some 0x8
  | .clrpair => some 0x9
  | .getstat => some 0xA
  | .setstat _ => some 0xB
  | .init => some 0xC
  | .reserved0 => some 0x0
  | .reserved2 => some 0x2
  | .reservedD => some 0xD
  | .reservedE => some 0xE
  | .reservedF => some 0xF

/-- The code that a request carries: none on the edge port. -/
def codeOf (r : Request) : Option Nat :=
  match r with
  | .edge _ => none
  | .host w => some (cmdOp w).toNat

/-- The canonical word of the operation carries the operation's code. -/
def Statement (i : Instr) : Prop := codeOf (encode i) = code i

theorem edge (level : BitVec 1) (ts ms : Time) : Statement (.edge level ts ms) := rfl

theorem isrdy : Statement .isrdy := rfl

theorem getmsg : Statement .getmsg := rfl

theorem since (ms : Time) : Statement (.since ms) := by simp [Statement, codeOf, encode, code]

theorem setrep (threshold timeout : BitVec 8) : Statement (.setrep threshold timeout) := by
  simp [Statement, codeOf, encode, code]

theorem addpair (c : Entry) : Statement (.addpair c) := by simp [Statement, codeOf, encode, code]

theorem pairbeg (timeout : BitVec 8) (ms : Time) : Statement (.pairbeg timeout ms) := by
  simp [Statement, codeOf, encode, code]

theorem getpair (index : BitVec 8) : Statement (.getpair index) := by simp [Statement, codeOf, encode, code]

theorem clrpair : Statement .clrpair := rfl

theorem getstat : Statement .getstat := rfl

theorem setstat (enable : BitVec 1) : Statement (.setstat enable) := by simp [Statement, codeOf, encode, code]

theorem init : Statement .init := rfl

theorem reserved0 : Statement .reserved0 := rfl

theorem reserved2 : Statement .reserved2 := rfl

theorem reservedD : Statement .reservedD := rfl

theorem reservedE : Statement .reservedE := rfl

theorem reservedF : Statement .reservedF := rfl

end Sys2Proof.Laws.PortAndCode
end

