-- ==== Sys2Proof/Tests/Slice0.lean ====
section
/-! SUPPORT. Tests: what the checks refuse, words written out from the spec's encodings, one step of each operation on
a small state (expected values from spec/95_test_vectors.md), and a witness for the hypotheses of each obligation. -/

namespace Sys2Proof.Tests

open Sys2Proof.Machine Sys2Proof.Safety

/-! ### Helpers -/

/-- Parameters of the tests: two entries, NV from address 0, the spec's default counters (D18). -/
def cfg : Config.Params where
  maxPairs := 2
  nvBase := 0
  statsDefault := #v[0, 65535, 0, 0, 65535, 0, 0, 65535, 0]

/-- After reset and INIT with an empty store. -/
def idle : State := { State.initial cfg [] [] with enabled := true }

/-- The entries of packets A, B, C and D. -/
def entryA : Entry := #v[0xF6, 0xEE, 0x6F, 0xED, 0xBB, 0xDB, 0x7B, 0xEE]

def entryB : Entry := #v[0x7B, 0xEE, 0x6F, 0xED, 0xBB, 0xDB, 0x7B, 0xEE]

def entryC : Entry := #v[0xF6, 0xDE, 0x6F, 0xED, 0xBB, 0xDB, 0x7B, 0xEE]

def entryD : Entry := #v[0xEB, 0xDE, 0xDD, 0xDB, 0xBE, 0xBD, 0xBB, 0xB7]

/-- The ten bytes of packet A. -/
def msgA : Message := #v[0xF6, 0xF6, 0xF6, 0xEE, 0x6F, 0xED, 0xBB, 0xDB, 0x7B, 0xEE]

/-- NV that holds a count and the entries of A and B in the layout of R61. -/
def nvAB (count : Byte) : Memory :=
  [(0, count), (1, 0xF6), (2, 0xEE), (3, 0x6F), (4, 0xED), (5, 0xBB), (6, 0xDB), (7, 0x7B), (8, 0xEE),
   (9, 0x7B), (10, 0xEE), (11, 0x6F), (12, 0xED), (13, 0xBB), (14, 0xDB), (15, 0x7B), (16, 0xEE)]

/-- One valid entry, A's, mirrored in NV; capacity for one more. -/
def paired : State :=
  { idle with pairCount := 1, pair := [entryA, Vector.replicate 8 0], nv := nvAB 1 }

/-- A full store: A's and B's entries, mirrored in NV. -/
def full : State := { idle with pairCount := 2, pair := [entryA, entryB], nv := nvAB 2 }

/-- In GB with `bytes` bytes and `bits` bits received, the buffer of packet A but for its last byte. -/
def receiving (bytes bits : BitVec 4) (acc : Byte) : State :=
  { idle with dstate := .gb, byteCnt := bytes, bitCnt := bits, acc := acc, buf := msgA.set 9 0 }

/-- A field of the state an operation leaves. -/
def after {α : Type} (i : Instr) (s : State) (f : State → α) : Option α :=
  match exec i s with
  | .next t => some (f t)
  | .fault _ => none
  | .refused _ => none

/-- The step answers a next state. -/
def runs (s : State) : Bool :=
  match step s with
  | .next _ => true
  | .fault _ => false
  | .refused _ => false

/-! ### What the checks refuse (R8, R92, log entry 7) -/

theorem test_wf_refuses_no_capacity : Config.Params.wf { cfg with maxPairs := 0 } = false := by decide

theorem test_wf_refuses_capacity_256 : Config.Params.wf { cfg with maxPairs := 256 } = false := by decide

theorem test_wf_refuses_base_too_high : Config.Params.wf { cfg with nvBase := 65520 } = false := by decide

theorem test_wf_accepts_largest_base : Config.Params.wf { cfg with nvBase := 65519 } = true := by decide

theorem test_canonical_refuses_ignored_bits : canonicalCmd 0x5deadbeef00000000abcd1403 = false := by decide

theorem test_canonical_accepts_setrep : canonicalCmd 0x5000000000000000000001403 = true := by decide

theorem test_bytes_wrong_length : decodeBytes .edge [0, 0, 0, 0, 0, 0, 0, 0] = .error .wrongLength := by decide

theorem test_bytes_padding : decodeTableWord 72 0x20000000000000000 = none := by decide

theorem test_memory_wf_refuses_unlisted_byte : Memory.wf [(3, 0xFF)] = false := by decide

theorem test_memory_wf_refuses_disorder : Memory.wf [(3, 1), (2, 1)] = false := by decide

/-! ### Decoding: the words of V11 and V12 -/

theorem test_decode_edge : decodeTableWord 72 0x100002710000003e8 = some (.edge 1 10000 1000) := by decide

theorem test_decode_edge_low : decodeTableWord 72 0x283c000003e8 = some (.edge 0 10300 1000) := by decide

theorem test_decode_isrdy : decodeTableWord 104 0x1000000000000000000000000 = some .isrdy := by decide

theorem test_decode_getmsg : decodeTableWord 104 0x3000000000000000000000000 = some .getmsg := by decide

theorem test_decode_since : decodeTableWord 104 0x4000004e20000000000000000 = some (.since 1250) := by decide

theorem test_decode_setrep : decodeTableWord 104 0x5000000000000000000001403 = some (.setrep 3 20) := by decide

theorem test_decode_addpair : decodeTableWord 104 0x600000000b7bbbdbedbdddeeb = some (.addpair entryD) := by decide

theorem test_decode_pairbeg : decodeTableWord 104 0x7000013880000000000000032 = some (.pairbeg 50 5000) := by decide

theorem test_decode_getpair : decodeTableWord 104 0x8000000000000000000000001 = some (.getpair 1) := by decide

theorem test_decode_clrpair : decodeTableWord 104 0x9000000000000000000000000 = some .clrpair := by decide

theorem test_decode_getstat : decodeTableWord 104 0xa000000000000000000000000 = some .getstat := by decide

theorem test_decode_setstat : decodeTableWord 104 0xb000000000000000000000001 = some (.setstat 1) := by decide

theorem test_decode_init : decodeTableWord 104 0xc000000000000000000000000 = some .init := by decide

theorem test_decode_reserved0 : decodeTableWord 104 0x0ffffffffffffffffffffffff = some .reserved0 := by decide

theorem test_decode_reserved2 : decodeTableWord 104 0x2ffffffffffffffffffffffff = some .reserved2 := by decide

theorem test_decode_reservedD : decodeTableWord 104 0xd000000000000000000000000 = some .reservedD := by decide

theorem test_decode_reservedE : decodeTableWord 104 0xe000000000000000000000000 = some .reservedE := by decide

theorem test_decode_reservedF : decodeTableWord 104 0xfffffffffffffffffffffffff = some .reservedF := by decide

theorem test_encode_addpair : encode (.addpair entryA) = .host 0x600000000ee7bdbbbed6feef6 := by decide

theorem test_encode_edge : encode (.edge 1 72600 1000) = .edge 0x100011b98000003e8 := by decide

/-! ### Shared operations -/

/-- V1, at the four comparators and at the extremes. -/
theorem test_classify_boundaries :
    ([0, 119, 120, 499, 500, 1999, 2000, 5000, 5001, 4294967295].map fun d => (classify 0 d).code) =
      [0, 0, 2, 2, 4, 4, 8, 8, 6, 6] ∧
    ([0, 119, 120, 499, 500, 1999, 2000, 5000, 5001, 4294967295].map fun d => (classify 1 d).code) =
      [1, 1, 3, 3, 5, 5, 8, 8, 7, 7] := by decide

/-- V7, rows 4, 5, 8 and 9. -/
theorem test_window_boundaries :
    windowExceeded 599 5 = false ∧ windowExceeded 600 5 = true ∧ windowExceeded 25599 255 = false ∧
    windowExceeded 25600 255 = true := by decide

/-- V10, the samples 300, 280, 320, 300 of class LOW1. -/
theorem test_samples_low1 :
    (([300, 280, 320, 300].foldl (fun st x => sampleClass st .low1 x) cfg.statsDefault)) =
      #v[0, 65535, 0, 320, 280, 1095, 0, 65535, 0] := by decide

/-- V8, the don't-care index: membership of A's entry with byte 0, then with byte 1, changed. -/
theorem test_dont_care_index :
    member paired (entryA.set 0 0xF7) = false ∧ member paired (entryA.set 1 0xEF) = true ∧
    member idle entryD = true := by decide

/-- V6, block 6: the count sticks at 256, where it is not the threshold. -/
theorem test_repeat_saturates :
    satinc 254 = 255 ∧ satinc 255 = 256 ∧ satinc 256 = 256 ∧
    eligible { idle with repeatThresh := 255, repeatCnt := 256 } = false := by decide

/-- The store with given contents lists the bytes that differ from the unlisted value. -/
theorem test_memory_listFrom : Memory.listFrom (fun a => if a = 1 then 7 else 0xFF) 3 0 = [(1, 7)] := by decide

/-- A write of the unlisted value removes the entry. -/
theorem test_memory_write_removes : Memory.write [(1, 5), (3, 7)] 3 0xFF = [(1, 5)] := by decide

/-! ### One operation each -/

/-- V4, GB with event 5. -/
theorem test_edge_appends_two_bits :
    after (.edge 1 1000 0) (receiving 3 2 0x05) (fun t => (t.dstate, t.byteCnt, t.bitCnt, t.acc)) =
      some (.gb, 3, 4, 0x16) := by decide

/-- V5, row 7: the nine-bit completion of the last byte, finalized as ready. -/
theorem test_edge_tenth_byte :
    after (.edge 1 1000 777) (receiving 9 7 0x7B)
        (fun t => (t.dstate, t.msg, t.msgReady, t.lastPktTime)) =
      some (.idle, msgA, true, 777) := by decide

theorem test_isrdy : after .isrdy { idle with msgReady := true } (·.resp) =
    some (some 0x100000000000000000000000000000000000000) := by decide

theorem test_getmsg : after .getmsg { idle with msgReady := true, msg := msgA } (fun t => (t.resp, t.msgReady)) =
    some (some 0x1000000000000000000ee7bdbbbed6feef6f6f6, false) := by decide

theorem test_since : after (.since 1250) { idle with lastPktTime := 1000 } (·.resp) =
    some (some 0x1000000000000000000000000000000000000fa) := by decide

theorem test_setrep : after (.setrep 3 20) idle (fun t => (t.repeatThresh, t.repeatTimeout)) = some (3, 20) := by decide

/-- V8, step 4: the second entry, its nine writes in order. -/
theorem test_addpair_appends : after (.addpair entryB) paired (fun t => (t.resp, t.pairCount, t.nv, t.nvPort)) =
    some (some 0x102000000000000000000000000000000000000, 2, nvAB 2,
      [.write 9 0x7B, .write 10 0xEE, .write 11 0x6F, .write 12 0xED, .write 13 0xBB, .write 14 0xDB, .write 15 0x7B,
       .write 16 0xEE, .write 0 2]) := by decide

/-- V8, step 3: a duplicate. -/
theorem test_addpair_duplicate : after (.addpair entryC) paired (fun t => (t.resp, t.pair, t.nvPort)) =
    some (some 0x101000000000000000000000000000000000000, paired.pair, []) := by decide

theorem test_pairbeg : after (.pairbeg 50 5000) idle (fun t => (t.pairTimeout, t.pairStart)) = some (50, 5000) := by
  decide

theorem test_getpair : after (.getpair 0) paired (·.resp) = some (some 0x10100000000000000000000ee7bdbbbed6feef6) := by
  decide

theorem test_getpair_bad_index : after (.getpair 2) full (·.resp) =
    some (some 0x2000000000000000000000000000000000000) := by decide

theorem test_clrpair : after .clrpair full (fun t => (t.resp, t.pairCount, t.pair, t.nvPort)) =
    some (some 0x100000000000000000000000000000000000000, 0, [entryA, entryB], [.write 0 0]) := by decide

/-- V10, the response after packet A. -/
theorem test_getstat :
    after .getstat { idle with statsEn := true, stat := #v[300, 300, 4708, 300, 300, 4487, 1300, 1300, 14295] } (·.resp) =
      some (some 0x10037d7051405141187012c012c1264012c012c) := by decide

theorem test_setstat_disable : after (.setstat 0) { idle with statsEn := true, stat := Vector.replicate 9 7 }
    (fun t => (t.statsEn, t.stat)) = some (false, cfg.statsDefault) := by decide

/-- V9, row 2 (with its two entries). -/
theorem test_init_restores : after .init (State.initial cfg (nvAB 2) []) (fun t => (t.resp, t.enabled, t.pair)) =
    some (some 0x102000000000000000000000000000000000000, true, [entryA, entryB]) := by decide

/-- V8, step 1: an erased store. -/
theorem test_init_corrupt : after .init (State.initial cfg [] []) (fun t => (t.resp, t.pairCount, t.nvPort)) =
    some (some 0x100000000000000000000000000000000000000, 0, [.read 0 0xFF, .write 0 0]) := by decide

/-- V12. -/
theorem test_reserved : [Instr.reserved0, .reserved2, .reservedD, .reservedE, .reservedF].map
    (fun i => after i paired id) = List.replicate 5 (some { paired with resp := some 0 }) := by decide

/-! ### The step -/

/-- Every row of the table, presented first after reset, runs. -/
theorem test_placed_words_run :
    runs (State.reset.withFetchWord 72 0x100002710000003e8) = true ∧
    ∀ op : Fin 16, runs (State.reset.withFetchWord 104 (op.val * 2 ^ 96)) = true := by
  refine ⟨rfl, fun op => ?_⟩
  fin_cases op <;> rfl

/-- R7: the edge sees PREV_TS before INIT, which runs in the step after it, has enabled anything. -/
theorem test_edge_before_command :
    (match step { State.initial cfg [] [] with
        inbox := [{ edge := some 0x100002710000003e8, cmd := some 0xc000000000000000000000000, reset := .released }] } with
      | .next t => (t.enabled, t.prevTs, t.inbox.length)
      | .fault _ => (true, 1, 0)
      | .refused _ => (true, 1, 0)) = (false, 0, 1) := by decide

/-- R255: power lost after the entry bytes, before the count. -/
theorem test_torn_addpair :
    (match step { paired with
        inbox := [{ edge := none, cmd := some 0x600000000ee7bdbbbed6fee7b, reset := .during 8 }] } with
      | .next t => (t.nv, t.pairCount, t.enabled)
      | .fault _ => ([], 9, true)
      | .refused _ => ([], 9, true)) = (nvAB 1, 0, false) := by decide

/-! ### Witnesses: for each obligation with hypotheses, a state and operands that meet all of them -/

theorem invariants_paired : Invariants paired :=
  ⟨by decide, by decide, by decide, by decide, by decide, by decide, by decide, by decide⟩

theorem invariants_full : Invariants full :=
  ⟨by decide, by decide, by decide, by decide, by decide, by decide, by decide, by decide⟩

theorem mirror_paired : Mirror paired := ⟨by decide, by decide⟩

theorem mirror_full : Mirror full := ⟨by decide, by decide⟩

theorem noDuplicates_full : NoDuplicates full := by
  intro j k hjk hk
  have hk2 : k < 2 := hk
  obtain ⟨rfl, rfl⟩ : j = 0 ∧ k = 1 := by omega
  decide

/-- The fields of a state in GB with BIT_CNT up to 7 and BYTE_CNT up to 9 meet the invariants. -/
theorem invariants_receiving : Invariants (receiving 9 7 0x7B) :=
  ⟨by decide, by decide, by decide, by decide, by decide, by decide, by decide, by decide⟩

theorem symbolsOk_receiving : SymbolsOk (receiving 9 7 0x7B) :=
  ⟨fun _ => by unfold NoAdjacentZeros; decide, fun i => by fin_cases i <;> (unfold NoAdjacentZeros; decide), .inl (by decide)⟩

theorem witness_DecodeOfEncodeIsTheOperation : (Instr.addpair entryA).wf = true := rfl

theorem witness_IgnoredBitsDoNotMatter : encode (.setrep 3 20) = .host 0x5000000000000000000001403 := by decide

theorem witness_StepRunsThePresentedOperation :
    (idle.withFetchWord 104 0xc000000000000000000000000).inbox = [arrivalOf (.host 0xc000000000000000000000000)] := by
  decide

theorem witness_PlacedWordRunsNext : decodeTableWord 104 0xc000000000000000000000000 = some .init ∧
    decodeTableWord 72 0x100002710000003e8 = some (.edge 1 10000 1000) := by decide

theorem witness_EdgeIsPerformedBeforeCommand : ∃ s : State, s.inbox =
    [{ edge := some 0x100002710000003e8, cmd := some 0xc000000000000000000000000, reset := .released }] :=
  ⟨{ idle with inbox := [_] }, rfl⟩

theorem witness_ArrivalsThatPerformNothing : idle.inbox = [] ∧
    (∃ s : State, s.inbox = [{ edge := none, cmd := none, reset := .released }]) ∧
    ∃ (s : State) (a : Arrival), s.inbox = [a] ∧ a.reset = .asserted :=
  ⟨rfl, ⟨{ idle with inbox := [_] }, rfl⟩,
    { full with inbox := [{ edge := none, cmd := some 0xc000000000000000000000000, reset := .asserted }] }, _, rfl, rfl⟩

/-- An appending ADDPAIR cut after the eighth of its nine writes. -/
theorem witness_TornOperationLeavesOldOrNewStore : ∃ (s : State) (r : Request), Invariants s ∧ Mirror s ∧
    decode r = .addpair entryB ∧ s.inbox = [{ arrivalOf r with reset := .during 8 }] :=
  ⟨{ paired with inbox := [{ arrivalOf (.host 0x600000000ee7bdbbbed6fee7b) with reset := .during 8 }] },
    .host 0x600000000ee7bdbbbed6fee7b,
    ⟨by decide, by decide, by decide, by decide, by decide, by decide, by decide, by decide⟩,
    ⟨by decide, by decide⟩, by decide, rfl⟩

theorem witness_PrimitivesAsNumbers :
    (32000 : BitVec 16).toNat ≤ 32000 ∧ (1999 : BitVec 16).toNat ≤ 1999 ∧
    (31984 : BitVec 16).toNat ≤ 16 * (1999 : BitVec 16).toNat := by decide

theorem witness_ComparatorTreeGivesTheCode : (3 : BitVec 2) =
    if (5001 : Time).toNat < 120 then 0 else if (5001 : Time).toNat < 500 then 1
    else if (5001 : Time).toNat < 2000 then 2 else 3 := by decide

theorem witness_DisabledEdgeHasNoEffect : (State.initial cfg [] []).enabled = false := rfl

theorem witness_EnabledEdgeUpdatesPrevTs : idle.enabled = true ∧ (receiving 9 7 0x7B).enabled = true := by decide

theorem witness_IdleTransitions : idle.enabled = true ∧ idle.dstate = .idle ∧ forms idle 1 5001 .g1 ∧
    ¬ forms idle 1 5000 .g1 := by decide

theorem witness_MessageStartTransitions :
    let s := { idle with dstate := .msf }
    s.enabled = true ∧ s.dstate = .msf ∧ forms s 0 120 .s0 ∧ forms s 1 499 .s1 ∧
    ¬ forms s 1 500 .s0 ∧ ¬ forms s 1 500 .s1 := by decide

theorem witness_ByteStartTransitions :
    let s := { idle with dstate := .bsf }
    s.enabled = true ∧ s.dstate = .bsf ∧ forms s 0 499 .s0 ∧ forms s 1 120 .s1 ∧ forms s 1 1999 .l1 ∧
    ¬ forms s 1 2000 .s0 ∧ ¬ forms s 1 2000 .s1 ∧ ¬ forms s 1 2000 .l1 := by decide

theorem witness_GettingByteWithoutAppend :
    let s := receiving 3 2 0x05
    s.enabled = true ∧ s.dstate = .gb ∧ forms s 0 499 .s0 ∧
    ¬ forms s 1 119 .s0 ∧ ¬ forms s 1 119 .s1 ∧ ¬ forms s 1 119 .l1 := by decide

theorem witness_AppendStaysInGettingByte :
    forms (receiving 3 6 0x3D) 1 300 .s1 ∧ (receiving 3 6 0x3D).bitCnt.toNat ≤ 6 ∧
    forms (receiving 3 5 0x1E) 1 500 .l1 ∧ (receiving 3 5 0x1E).bitCnt.toNat ≤ 5 ∧
    (receiving 3 6 0x3D).enabled = true ∧ (receiving 3 6 0x3D).dstate = .gb ∧
    (receiving 3 5 0x1E).enabled = true ∧ (receiving 3 5 0x1E).dstate = .gb := by decide

theorem witness_AppendCompletesAByte :
    let s := receiving 8 7 0x7F
    s.byteCnt.toNat ≤ 8 ∧ s.enabled = true ∧ s.dstate = .gb ∧ forms s 1 300 .s1 ∧ s.bitCnt.toNat = 7 ∧
    forms s 1 1000 .l1 ∧ (receiving 8 6 0x3D).bitCnt.toNat = 6 := by decide

theorem witness_TenthByteFinalizes :
    let s := receiving 9 7 0x7B
    s.enabled = true ∧ s.dstate = .gb ∧ s.byteCnt.toNat = 9 ∧ forms s 1 300 .s1 ∧ forms s 1 1000 .l1 ∧
    s.bitCnt.toNat = 7 ∧ (receiving 9 6 0x3B).bitCnt.toNat = 6 := by decide

theorem witness_TransitionTable : Invariants (receiving 9 7 0x7B) ∧ (receiving 9 7 0x7B).enabled = true :=
  ⟨invariants_receiving, rfl⟩

theorem witness_SymbolBitsInOrder :
    let evs : List (Event × Time × Time) := [(.s1, 300, 0), (.l1, 1000, 0), (.l1, 1000, 0)]
    (receiving 0 2 0).dstate = .gb ∧ (∀ e ∈ evs, e.1 = .s1 ∨ e.1 = .l1) ∧
    (receiving 0 2 0).bitCnt.toNat + (evs.flatMap fun e => eventBits e.1).length ≤ 7 := by decide

/-- Two states that differ in ACC above the two bits received. -/
theorem witness_StaleAccumulatorIsUnobservable : AccSim (receiving 3 2 0x05) (receiving 3 2 0xF9) ∧
    after (.edge 1 1000 0) (receiving 3 2 0x05) (·.acc) = some 0x16 ∧
    after (.edge 1 1000 0) (receiving 3 2 0xF9) (·.acc) = some 0xE6 :=
  ⟨⟨rfl, fun _ => by decide⟩, by decide, by decide⟩

theorem witness_IneligibleCandidateStops :
    let s := { idle with repeatThresh := 3, repeatTimeout := 20, buf := msgA }
    (1 : BitVec 9) = (finalize 1000 s).repeatCnt ∧ s.repeatThresh ≠ 0 ∧
    s.repeatThresh.toNat ≠ (1 : BitVec 9).toNat := by decide

/-- V7, row 4: the last millisecond of the window; threshold 0, then threshold 1 met by the count. -/
theorem witness_CaptureWithinWindow :
    let s := { idle with pairTimeout := 5, buf := msgA }
    let u := { idle with pairTimeout := 5, buf := msgA, repeatThresh := 1 }
    ((0 : BitVec 9) = (finalize 599 s).repeatCnt ∧ s.repeatThresh = 0 ∧ s.pairTimeout ≠ 0 ∧
      (sub32 599 s.pairStart).toNat / 100 ≤ s.pairTimeout.toNat) ∧
    (1 : BitVec 9) = (finalize 599 u).repeatCnt ∧ u.repeatThresh.toNat = (1 : BitVec 9).toNat := by decide

/-- No session; and V7, row 5: the first millisecond after the window. -/
theorem witness_MembershipPublishes :
    let s := { idle with buf := msgA }
    let u := { idle with pairTimeout := 5, buf := msgA }
    ((0 : BitVec 9) = (finalize 600 s).repeatCnt ∧ s.repeatThresh = 0 ∧ s.pairTimeout = 0) ∧
    (0 : BitVec 9) = (finalize 600 u).repeatCnt ∧ u.repeatThresh = 0 ∧
    (sub32 600 u.pairStart).toNat / 100 > u.pairTimeout.toNat := by decide

theorem witness_ReadyFlagMeansWholeMessage : ∃ t, exec (.edge 1 1000 777) (receiving 9 7 0x7B) = .next t ∧
    (receiving 9 7 0x7B).msgReady = false ∧ t.msgReady = true :=
  ⟨_, rfl, by decide, by decide⟩

/-- Two candidates A in the window, the second at its last millisecond. -/
theorem witness_BurstIsEligibleOnce :
    let s := { idle with repeatThresh := 3, repeatTimeout := 20, repeatCnt := 1, msg := msgA, lastPktTime := 1000 }
    s.repeatThresh ≠ 0 ∧ s.msg = msgA ∧ s.repeatCnt.toNat ≤ 256 ∧ burstInWindow msgA s [1100, 3199] :=
  ⟨by decide, by decide, by decide, by decide, by decide, trivial⟩

theorem witness_MembershipTest : full.pairCount.toNat ≤ full.pair.length ∧ matchAny full entryB = true ∧
    matchAny full entryD = false := by decide

/-- The last free place of the store; a duplicate; a full store. -/
theorem witness_AddpairAppendsOrDoesNothing :
    (Invariants paired ∧ 1 = paired.pairCount.toNat ∧ matchAny paired entryB = false ∧ 1 < paired.cfg.maxPairs) ∧
    matchAny paired entryC = true ∧ full.cfg.maxPairs ≤ full.pairCount.toNat ∧ matchAny full entryD = false :=
  ⟨⟨invariants_paired, by decide, by decide, by decide⟩, by decide, by decide, by decide⟩

/-- A persisted count equal to MAX_PAIRS, and one above it. -/
theorem witness_InitRestoresOrEmptiesTheStore :
    (Invariants full ∧ (nvByte full 0).toNat ≤ full.cfg.maxPairs) ∧
    ({ idle with nv := nvAB 3 } : State).nv.wf = true ∧
    (nvByte { idle with nv := nvAB 3 } 0).toNat > ({ idle with nv := nvAB 3 } : State).cfg.maxPairs :=
  ⟨⟨invariants_full, by decide⟩, by decide, by decide⟩

theorem witness_ClrpairZeroesTheCount : full.nv.wf = true := by decide

theorem witness_GetpairReadsAnEntry : (1 : BitVec 8).toNat < full.pairCount.toNat ∧
    full.pairCount.toNat ≤ (2 : BitVec 8).toNat := by decide

theorem witness_EntriesAreNeverMoved : Instr.addpair entryB ≠ .init ∧ 0 < paired.pairCount.toNat ∧
    ∃ t, exec (.addpair entryB) paired = .next t :=
  ⟨by decide, by decide, _, rfl⟩

theorem witness_NvAccessesOfEachOperation : (∃ t, exec (.edge 1 1000 777) (receiving 9 7 0x7B) = .next t) ∧
    (∃ t, exec .init full = .next t) ∧ (∃ t, exec (.addpair entryB) paired = .next t) ∧
    ∃ t, exec .isrdy full = .next t :=
  ⟨⟨_, rfl⟩, ⟨_, rfl⟩, ⟨_, rfl⟩, _, rfl⟩

theorem witness_MirrorIsEstablishedAndKept : Invariants paired ∧ Mirror paired ∧
    (∃ t, exec .init paired = .next t) ∧ ∃ t, exec (.addpair entryB) paired = .next t :=
  ⟨invariants_paired, mirror_paired, ⟨_, rfl⟩, _, rfl⟩

theorem witness_SecondInitReloadsTheSame : Invariants full ∧ Mirror full := ⟨invariants_full, mirror_full⟩

/-- An ADDPAIR; the first INIT after reset, on an NV that holds two entries; an INIT while the mirror holds. -/
theorem witness_NoDuplicatesAreKept :
    (Instr.addpair entryD ≠ .init ∧ Invariants full ∧ NoDuplicates full ∧ ∃ t, exec (.addpair entryD) full = .next t) ∧
    (Invariants (State.initial cfg (nvAB 2) []) ∧ NoPersistedDuplicates (State.initial cfg (nvAB 2) []) ∧
      nvByte (State.initial cfg (nvAB 2) []) 0 = 2 ∧ ∃ t, exec .init (State.initial cfg (nvAB 2) []) = .next t) ∧
    Mirror full ∧ ∃ t, exec .init full = .next t := by
  refine ⟨⟨by decide, invariants_full, noDuplicates_full, _, rfl⟩,
    ⟨⟨by decide, by decide, by decide, by decide, by decide, by decide, by decide, by decide⟩, fun _ j k hjk hk => ?_,
      by decide, _, rfl⟩, mirror_full, _, rfl⟩
  have hk2 : k < 2 := hk
  obtain ⟨rfl, rfl⟩ : j = 0 ∧ k = 1 := by omega
  decide

theorem witness_StatisticsSample :
    (∃ t, t = statsUpdate .low1 300 idle ∧ idle.statsEn = false) ∧
    ∃ t, t = statsUpdate .low1 300 { idle with statsEn := true } ∧ ({ idle with statsEn := true } : State).statsEn = true :=
  ⟨⟨_, rfl, rfl⟩, _, rfl, rfl⟩

theorem witness_OnlyByteReceptionIsSampled :
    (idle.enabled = true ∧ ∃ t, exec (.edge 1 300 0) idle = .next t) ∧
    ¬ isEdge (.setstat 1) ∧ Instr.setstat 1 ≠ .setstat 0 ∧ ∃ t, exec (.setstat 1) idle = .next t :=
  ⟨⟨rfl, _, rfl⟩, fun ⟨_, _, _, h⟩ => (by cases h), by decide, _, rfl⟩

theorem witness_GetstatReadsTheCounters :
    ({ idle with statsEn := true } : State).statsEn = true ∧ idle.statsEn = false := ⟨rfl, rfl⟩

theorem witness_GetmsgReturnsAndClears :
    ({ idle with msgReady := true } : State).msgReady = true ∧ idle.msgReady = false := ⟨rfl, rfl⟩

theorem witness_ReservedCodesDoNothing :
    cmdOp 0x0ffffffffffffffffffffffff = 0x0 ∧ cmdOp 0x2ffffffffffffffffffffffff = 0x2 ∧
    cmdOp 0xdffffffffffffffffffffffff = 0xD ∧ cmdOp 0xeffffffffffffffffffffffff = 0xE ∧
    cmdOp 0xfffffffffffffffffffffffff = 0xF := by decide

theorem witness_EdgePortWritesOnly : ∃ t, exec (.edge 1 1000 777) (receiving 9 7 0x7B) = .next t := ⟨_, rfl⟩

theorem witness_HostPortWritesOnly : (¬ isEdge .clrpair ∧ ∃ t, exec .clrpair full = .next t) ∧
    ¬ isEdge .isrdy ∧ Instr.isrdy ≠ .init ∧ Instr.isrdy ≠ .clrpair ∧ ¬ isAddpair .isrdy ∧
    ∃ t, exec .isrdy full = .next t :=
  ⟨⟨fun ⟨_, _, _, h⟩ => (by cases h), _, rfl⟩, fun ⟨_, _, _, h⟩ => (by cases h), by decide, by decide,
    fun ⟨_, h⟩ => (by cases h), _, rfl⟩

/-- For GETPAIR, two states that differ in NV, in MAX_PAIRS and in registers the host cannot observe; for INIT and
ADDPAIR, two that differ in such registers. -/
theorem witness_ResponsesRevealOnlyObservableState :
    let t := { paired with acc := 1, msg := msgA, repeatCnt := 2, nv := [], cfg := { cfg with maxPairs := 1 } }
    let u := { paired with acc := 1, msg := msgA, repeatCnt := 2 }
    (¬ isEdge (.getpair 0) ∧ HostAgree paired t ∧ Instr.getpair 0 ≠ .init ∧ ¬ isAddpair (.getpair 0) ∧
      (∃ t1, exec (.getpair 0) paired = .next t1) ∧ ∃ t1, exec (.getpair 0) t = .next t1) ∧
    HostAgree paired u ∧ paired.nv = u.nv ∧ paired.cfg = u.cfg ∧ ¬ isEdge .init ∧ ¬ isEdge (.addpair entryB) :=
  ⟨⟨fun ⟨_, _, _, h⟩ => (by cases h),
      ⟨rfl, fun h => (by cases h), rfl, rfl, rfl, rfl, fun h => (by cases h)⟩, by decide, fun ⟨_, h⟩ => (by cases h),
      ⟨_, rfl⟩, _, rfl⟩,
    ⟨rfl, fun h => (by cases h), rfl, rfl, rfl, rfl, fun h => (by cases h)⟩, rfl, rfl,
    fun ⟨_, _, _, h⟩ => (by cases h), fun ⟨_, _, _, h⟩ => (by cases h)⟩

theorem witness_EveryStepKeepsTheInvariants : ∃ s, Invariants s ∧ s.inbox.length = 1 ∧ ∃ t, step s = .next t :=
  ⟨paired.withFetchWord 104 0x600000000ee7bdbbbed6fee7b,
    ⟨by decide, by decide, by decide, by decide, by decide, by decide, by decide, by decide⟩, rfl, _, rfl⟩

theorem witness_EveryStepKeepsSymbolsFreeOfDoubleZeros :
    SymbolsOk (receiving 9 7 0x7B) ∧ ∃ t, step (receiving 9 7 0x7B) = .next t :=
  ⟨symbolsOk_receiving, _, rfl⟩

end Sys2Proof.Tests
end

section
/-! The window arithmetic of R14: whole 100 ms units, and the elapsed times that exceed a window. -/

namespace Sys2Proof.Machine

theorem units_eq_div (e : Time) : units e = e.toNat / 100 := rfl

/-- A 32-bit elapsed time has at most (2^32 - 1) / 100 whole units. -/
theorem units_le (e : Time) : units e ≤ 42949672 := by
  have he : e.toNat < 2 ^ 32 := e.isLt
  rw [units_eq_div]
  omega

theorem windowExceeded_iff_units (e : Time) (t : BitVec 8) : windowExceeded e t = true ↔ units e > t.toNat :=
  decide_eq_true_iff

/-- More than `n` whole units have elapsed exactly from the end of unit `n + 1` on. -/
theorem lt_units_iff (e : Time) (n : Nat) : n < units e ↔ 100 * (n + 1) ≤ e.toNat := by
  rw [units_eq_div, Nat.lt_iff_add_one_le, Nat.le_div_iff_mul_le (by decide), Nat.mul_comm]

theorem windowExceeded_iff_milliseconds (e : Time) (t : BitVec 8) :
    windowExceeded e t = true ↔ e.toNat ≥ 100 * (t.toNat + 1) :=
  (windowExceeded_iff_units e t).trans (lt_units_iff e t.toNat)

/-- Settles O14: the unit count is the floor of R14, and the millisecond bound is the floor's adjunction
`lt_units_iff`. -/
theorem windowExceededFrom : Obligations.WindowExceededFrom := fun e t =>
  ⟨units_eq_div e, units_le e, windowExceeded_iff_units e t, windowExceeded_iff_milliseconds e t⟩

end Sys2Proof.Machine
end

section
/-! The reset table of R46. Its content is one lemma about `State.initial`, from which both the state after reset and a
reset from any state come. -/

namespace Sys2Proof.Machine

/-- The zeros of BUF, MSG and the pair entries in R46, byte by byte. -/
theorem getElem_replicate_zero {n : Nat} (i : Fin n) : (Vector.replicate n (0 : Byte))[i] = 0 :=
  Vector.getElem_replicate i.isLt

theorem registersReset_initial (cfg : Config.Params) (nv : Memory) (inbox : List Arrival) :
    Safety.RegistersReset (State.initial cfg nv inbox) where
  enabled := initial_enabled ..
  prevTs := initial_prevTs ..
  dstate := initial_dstate ..
  acc := initial_acc ..
  bitCnt := initial_bitCnt ..
  byteCnt := initial_byteCnt ..
  buf i := by rw [initial_buf, getElem_replicate_zero]
  msg i := by rw [initial_msg, getElem_replicate_zero]
  msgReady := initial_msgReady ..
  repeatThresh := initial_repeatThresh ..
  repeatTimeout := initial_repeatTimeout ..
  repeatCnt := initial_repeatCnt ..
  lastPktTime := initial_lastPktTime ..
  pairTimeout := initial_pairTimeout ..
  pairStart := initial_pairStart ..
  pairCount := initial_pairCount ..
  pair_length := by rw [initial_pair, initial_cfg, List.length_replicate]
  pair e he i := by
    rw [initial_pair] at he
    rw [List.eq_of_mem_replicate he, getElem_replicate_zero]
  statsEn := initial_statsEn ..
  stat := by rw [initial_stat, initial_cfg]

theorem registersReset_resetCore (s : State) : Safety.RegistersReset (resetCore s) :=
  registersReset_initial s.cfg s.nv s.inbox

/-- R76: the store of the state after reset is NV_INIT at every address. -/
theorem read_reset_nv (a : NvAddr) : State.reset.nv.read a.toNat = Config.nvInit a := by
  rw [State.reset, initial_nv, Memory.read_ofContents]

/-- Settles O11: both states are `State.initial` of some parameters and store, whose registers are the table of R46. -/
theorem resetTable : Obligations.ResetTable :=
  ⟨registersReset_initial _ _ _, read_reset_nv,
    fun s => ⟨registersReset_resetCore s, resetCore_nv s, resetCore_cfg s⟩⟩

end Sys2Proof.Machine
end

section
/-! The accesses of each operation to NV (R68). The pair store and its mirror are written together, so each operation is
described by one of two relations between its states: `PairStoreKept` (no access) and `Appended` (the nine writes of
R173). They are carried from `add_entry` up through finalization and the FSM to EDGE. -/

namespace Sys2Proof.Machine

open Sys2Proof.Safety

/-! ### Reads leave the store alone -/

/-- R67: accesses of which none writes. -/
theorem foldl_applyAccess_of_reads (l : List NvAccess) (m : Memory) (h : ∀ x ∈ l, x.writtenTo = none) :
    l.foldl applyAccess m = m := by
  induction l with
  | nil => rfl
  | cons x rest ih =>
    obtain ⟨hx, hrest⟩ := List.forall_mem_cons.1 h
    cases x with
    | read addr b => exact ih hrest
    | write addr b => cases hx

theorem restoreAccesses_eq (s : State) (n : Nat) :
    restoreAccesses s n = .read (nvAddr s.cfg 0) (nvByte s 0) :: restoreReads s n := rfl

theorem writtenTo_of_mem_restoreAccesses (s : State) (n : Nat) (x : NvAccess) (hx : x ∈ restoreAccesses s n) :
    x.writtenTo = none := by
  rw [restoreAccesses_eq] at hx
  rcases List.mem_cons.1 hx with rfl | hx
  · rfl
  · obtain ⟨k, -, hk⟩ := List.mem_flatMap.1 hx
    obtain ⟨i, -, rfl⟩ := List.mem_map.1 hk
    rfl

/-! ### The two effects on the pair store -/

/-- No access to NV, and the count is as before. -/
structure PairStoreKept (s t : State) : Prop where
  nvPort : t.nvPort = s.nvPort
  nv : t.nv = s.nv
  pairCount : t.pairCount = s.pairCount
  cfg : t.cfg = s.cfg

/-- The nine writes of an append of `e`, NV changed by them alone, and the count one higher (R173). -/
structure Appended (s t : State) (e : Entry) : Prop where
  nvPort : t.nvPort = s.nvPort ++ appendAccesses s.cfg s.pairCount.toNat e (s.pairCount + 1)
  nv : t.nv = (appendAccesses s.cfg s.pairCount.toNat e (s.pairCount + 1)).foldl applyAccess s.nv
  pairCount : t.pairCount = s.pairCount + 1

/-- An append by the capture of the message just finalized (R157, R174). -/
structure Captured (s t : State) : Prop where
  pairing : pairingActive s = true
  idle : t.dstate = .idle
  appended : Appended s t (pairBytes t.msg)

theorem PairStoreKept.refl (s : State) : PairStoreKept s s := ⟨rfl, rfl, rfl, rfl⟩

theorem PairStoreKept.trans {s u t : State} (h : PairStoreKept s u) (h' : PairStoreKept u t) : PairStoreKept s t :=
  ⟨h'.nvPort.trans h.nvPort, h'.nv.trans h.nv, h'.pairCount.trans h.pairCount, h'.cfg.trans h.cfg⟩

theorem PairStoreKept.appended {s u t : State} {e : Entry} (h : PairStoreKept s u) (h' : Appended u t e) :
    Appended s t e where
  nvPort := by rw [h'.nvPort, h.nvPort, h.cfg, h.pairCount]
  nv := by rw [h'.nv, h.nv, h.cfg, h.pairCount]
  pairCount := by rw [h'.pairCount, h.pairCount]

theorem PairStoreKept.keptOrCaptured {s u t : State} (h : PairStoreKept s u) (ht : u.pairTimeout = s.pairTimeout)
    (h' : PairStoreKept u t ∨ Captured u t) : PairStoreKept s t ∨ Captured s t := by
  rcases h' with hk | hc
  · exact .inl (h.trans hk)
  · have hp : pairingActive s = true := by rw [pairingActive, ← ht]; exact hc.pairing
    exact .inr ⟨hp, hc.idle, h.appended hc.appended⟩

/-! ### From `add_entry` to EDGE -/

theorem addEntry_kept_or_appended (s : State) (e : Entry) :
    PairStoreKept s (addEntry s e) ∨ Appended s (addEntry s e) e := by
  rcases addEntry_cases s e with h | ⟨-, -, h⟩
  · exact .inl (h.symm ▸ .refl s)
  · exact .inr (h.symm ▸ ⟨rfl, rfl, rfl⟩)

/-- Only a finalization that captures reaches NV, and a capture needs an active session (R156, R157). -/
theorem finalize_kept_or_appended (ms : Time) (s : State) :
    PairStoreKept s (finalize ms s) ∨
      pairingActive s = true ∧ Appended s (finalize ms s) (pairBytes (finalize ms s).msg) := by
  rw [finalize_msg]
  rcases finalize_cases ms s with ⟨-, h⟩ | ⟨-, hp, -, h⟩ | ⟨-, -, h⟩ <;> rw [h]
  · exact .inl ⟨rfl, rfl, rfl, rfl⟩
  · have hrec : PairStoreKept s { recordCandidate ms s with pairTimeout := 0 } := ⟨rfl, rfl, rfl, rfl⟩
    exact (addEntry_kept_or_appended _ _).imp hrec.trans fun ha => ⟨hp, hrec.appended ha⟩
  · exact .inl ⟨rfl, rfl, rfl, rfl⟩

theorem completionCheck_kept_or_captured (ms : Time) (s : State) :
    PairStoreKept s (completionCheck ms s) ∨ Captured s (completionCheck ms s) := by
  rcases completionCheck_cases ms s with ⟨-, h⟩ | ⟨-, -, h⟩ | ⟨-, -, h⟩ <;> rw [h]
  · exact .inl (.refl s)
  · exact .inl ⟨rfl, rfl, rfl, rfl⟩
  · rcases finalize_kept_or_appended ms
      { s with buf := s.buf.setIfInBounds s.byteCnt.toNat s.acc, byteCnt := s.byteCnt + 1, bitCnt := 0 } with
      hk | ⟨hp, ha⟩
    · exact .inl ⟨hk.nvPort, hk.nv, hk.pairCount, hk.cfg⟩
    · exact .inr ⟨hp, rfl, ha.nvPort, ha.nv, ha.pairCount⟩

theorem statsUpdate_kept (c : StatClass) (dur : Time) (s : State) : PairStoreKept s (statsUpdate c dur s) :=
  ⟨statsUpdate_nvPort .., statsUpdate_nv .., statsUpdate_pairCount .., statsUpdate_cfg ..⟩

theorem resync_kept (s : State) : PairStoreKept s (resync s) := ⟨rfl, rfl, rfl, rfl⟩

/-- The completion check after a sampled pulse (R131, R132), for any new ACC and BIT_CNT. -/
theorem completionCheck_statsUpdate_kept_or_captured (c : StatClass) (dur ms : Time) (s : State) (acc : Byte)
    (n : BitVec 4) :
    let t := completionCheck ms (statsUpdate c dur { s with acc := acc, bitCnt := n })
    PairStoreKept s t ∨ Captured s t :=
  have hpulse : PairStoreKept s { s with acc := acc, bitCnt := n } := ⟨rfl, rfl, rfl, rfl⟩
  (hpulse.trans (statsUpdate_kept c dur _)).keptOrCaptured (statsUpdate_pairTimeout ..)
    (completionCheck_kept_or_captured ms _)

theorem idleStep_kept (ev : Event) (s : State) : PairStoreKept s (idleStep ev s) := by
  cases ev with
  | g1 => exact ⟨rfl, rfl, rfl, rfl⟩
  | _ => exact .refl s

theorem msfStep_kept (ev : Event) (s : State) : PairStoreKept s (msfStep ev s) := by
  cases ev with
  | s0 => exact .refl s
  | s1 => exact ⟨rfl, rfl, rfl, rfl⟩
  | _ => exact resync_kept s

theorem bsfStep_kept (ev : Event) (s : State) : PairStoreKept s (bsfStep ev s) := by
  cases ev with
  | s0 => exact .refl s
  | s1 | l1 => exact ⟨rfl, rfl, rfl, rfl⟩
  | _ => exact resync_kept s

theorem gbStep_kept_or_captured (ev : Event) (dur ms : Time) (s : State) :
    PairStoreKept s (gbStep ev dur ms s) ∨ Captured s (gbStep ev dur ms s) := by
  cases ev with
  | s0 => exact .inl (statsUpdate_kept .high dur s)
  | s1 => exact completionCheck_statsUpdate_kept_or_captured .low1 dur ms s _ _
  | l1 => exact completionCheck_statsUpdate_kept_or_captured .low0 dur ms s _ _
  | _ => exact .inl (resync_kept s)

/-- Of the four states only GB completes a message, and so captures. -/
theorem fsmStep_kept_or_captured (ev : Event) (dur ms : Time) (s : State) :
    PairStoreKept s (fsmStep ev dur ms s) ∨ s.dstate = .gb ∧ Captured s (fsmStep ev dur ms s) := by
  unfold fsmStep
  cases hd : s.dstate with
  | idle => exact .inl (idleStep_kept ev s)
  | msf => exact .inl (msfStep_kept ev s)
  | bsf => exact .inl (bsfStep_kept ev s)
  | gb => exact (gbStep_kept_or_captured ev dur ms s).imp_right fun h => ⟨rfl, h⟩

theorem execEdge_kept_or_captured (level : BitVec 1) (ts ms : Time) (s t : State)
    (h : exec (.edge level ts ms) s = .next t) : PairStoreKept s t ∨ s.dstate = .gb ∧ Captured s t := by
  obtain rfl : (if s.enabled then edgeFrontEnd level ts ms s else s) = t := Host.Outcome.next.inj h
  split
  · rcases fsmStep_kept_or_captured (classify level (sub32 ts s.prevTs)) (sub32 ts s.prevTs) ms
      { s with prevTs := ts } with hk | ⟨hd, hc⟩
    · exact .inl ⟨hk.nvPort, hk.nv, hk.pairCount, hk.cfg⟩
    · exact .inr ⟨hd, hc.pairing, hc.idle, hc.appended.nvPort, hc.appended.nv, hc.appended.pairCount⟩
  · exact .inl (.refl s)

/-- One bit before the end of a message, in a pairing session, with an empty store of one entry. -/
def lastBitInSession : State :=
  { State.initial { maxPairs := 1, nvBase := 0, statsDefault := Vector.replicate 9 0 } [] [] with
    enabled := true, dstate := .gb, acc := 0x7B, bitCnt := 7, byteCnt := 9, pairTimeout := 1 }

/-- An EDGE whose capture appends. -/
theorem witness_captured : ∃ t, exec (.edge 1 300 0) lastBitInSession = .next t ∧ Captured lastBitInSession t :=
  ⟨_, rfl, rfl, rfl, rfl, rfl, rfl⟩

/-! ### The commands -/

theorem execAddpair_kept_or_appended (s t : State) (e : Entry) (h : exec (.addpair e) s = .next t) :
    PairStoreKept s t ∨ Appended s t e := by
  obtain rfl : respond (addEntry s e) true (addEntry s e).pairCount 0 = t := Host.Outcome.next.inj h
  rcases addEntry_kept_or_appended s e with hk | ha
  · exact .inl ⟨hk.nvPort, hk.nv, hk.pairCount, hk.cfg⟩
  · exact .inr ⟨ha.nvPort, ha.nv, ha.pairCount⟩

/-- What INIT does to NV: the repair of a count above MAX_PAIRS, or reads alone (R175). -/
theorem execInit_accesses (s t : State) (h : exec .init s = .next t) :
    ((nvByte s 0).toNat > s.cfg.maxPairs ∧
      t.nvPort = s.nvPort ++ [.read (nvAddr s.cfg 0) (nvByte s 0), .write (nvAddr s.cfg 0) 0] ∧
      t.nv = s.nv.write (nvAddr s.cfg 0).toNat 0) ∨
    ((nvByte s 0).toNat ≤ s.cfg.maxPairs ∧
      t.nvPort = s.nvPort ++ restoreAccesses s (nvByte s 0).toNat ∧ t.nv = s.nv) := by
  obtain rfl : respond { restore s with enabled := true } true (restore s).pairCount 0 = t := Host.Outcome.next.inj h
  rcases restore_cases s with ⟨hle, hr⟩ | ⟨hgt, hr⟩ <;> rw [hr]
  · exact .inr ⟨hle, by rw [restoreAccesses_eq]; simp, rfl⟩
  · exact .inl ⟨hgt, rfl, rfl⟩

/-- The operations with accesses to NV: the four rows of R68. -/
def accessesNv (i : Instr) : Bool :=
  match i with
  | .init | .addpair _ | .edge _ _ _ | .clrpair => true
  | _ => false

theorem setStats_kept (enable : BitVec 1) (s : State) : PairStoreKept s (setStats enable s) := by
  unfold setStats
  split <;> exact ⟨rfl, rfl, rfl, rfl⟩

/-- R68: the rest access NV in no way; GETPAIR reads the register file. -/
theorem exec_kept_of_not_accessesNv (i : Instr) (s t : State) (hi : accessesNv i = false) (h : exec i s = .next t) :
    PairStoreKept s t := by
  cases i with
  | init | addpair | edge | clrpair => cases hi
  | getmsg | getstat =>
    obtain rfl := Host.Outcome.next.inj h
    split <;> exact ⟨rfl, rfl, rfl, rfl⟩
  | setstat enable =>
    obtain rfl := Host.Outcome.next.inj h
    have hk := setStats_kept enable s
    exact ⟨hk.nvPort, hk.nv, hk.pairCount, hk.cfg⟩
  | _ =>
    obtain rfl := Host.Outcome.next.inj h
    exact ⟨rfl, rfl, rfl, rfl⟩

/-- The access list of a step that keeps the pair store. -/
theorem PairStoreKept.no_accesses {s t : State} (h : PairStoreKept s t) :
    t.nvPort = s.nvPort ++ [] ∧ t.nv = List.foldl applyAccess s.nv [] :=
  ⟨by rw [h.nvPort, List.append_nil], h.nv⟩

/-- Settles O41: operation by operation, from the lemma that says what each does to NV. -/
theorem nvAccessesOfEachOperation : Obligations.NvAccessesOfEachOperation := by
  unfold Obligations.NvAccessesOfEachOperation
  intro i s t h
  cases i with
  | init =>
    rcases execInit_accesses s t h with ⟨hgt, hport, hnv⟩ | ⟨hle, hport, hnv⟩
    · exact ⟨_, hport, hnv, .inl ⟨hgt, rfl⟩⟩
    · have hreads := foldl_applyAccess_of_reads _ s.nv (writtenTo_of_mem_restoreAccesses s (nvByte s 0).toNat)
      exact ⟨_, hport, hnv.trans hreads.symm, .inr ⟨hle, rfl⟩⟩
  | addpair e =>
    rcases execAddpair_kept_or_appended s t e h with hk | ha
    · obtain ⟨hport, hnv⟩ := hk.no_accesses
      exact ⟨[], hport, hnv, .inl ⟨rfl, hk.pairCount⟩⟩
    · exact ⟨_, ha.nvPort, ha.nv, .inr ⟨rfl, ha.pairCount⟩⟩
  | edge level ts ms =>
    rcases execEdge_kept_or_captured level ts ms s t h with hk | ⟨hd, hc⟩
    · obtain ⟨hport, hnv⟩ := hk.no_accesses
      exact ⟨[], hport, hnv, .inl ⟨rfl, hk.pairCount⟩⟩
    · exact ⟨_, hc.appended.nvPort, hc.appended.nv, .inr ⟨rfl, hc.appended.pairCount, hd, hc.idle, hc.pairing⟩⟩
  | clrpair =>
    obtain rfl : respond (clearPairs s) true 0 0 = t := Host.Outcome.next.inj h
    exact ⟨_, rfl, rfl, rfl⟩
  | _ =>
    have hk := exec_kept_of_not_accessesNv _ s t rfl h
    obtain ⟨hport, hnv⟩ := hk.no_accesses
    exact ⟨[], hport, hnv, rfl⟩

end Sys2Proof.Machine
end

section
/-! The ignored bits of R92. Decoding reads a command word through the bits of `usedBits` alone (`decode_and_usedBits`),
and encoding what was decoded gives the word with every other bit cleared (`encode_decode_host`). -/

namespace Sys2Proof

/-! ### Fields of a command word -/

theorem cmdWord_fields (w : CmdWord) : cmdWord (cmdOp w) (cmdMs w) (cmdArg w) = w := by
  have hjoin := @BitVec.extractLsb'_append_extractLsb'_eq_extractLsb'
  rw [cmdWord, cmdOp, cmdMs, cmdArg, hjoin, hjoin, BitVec.extractLsb'_eq_self] <;> rfl

@[simp] theorem cmdOp_and (w v : CmdWord) : cmdOp (w &&& v) = cmdOp w &&& cmdOp v := BitVec.extractLsb'_and

@[simp] theorem cmdMs_and (w v : CmdWord) : cmdMs (w &&& v) = cmdMs w &&& cmdMs v := BitVec.extractLsb'_and

@[simp] theorem cmdArg_and (w v : CmdWord) : cmdArg (w &&& v) = cmdArg w &&& cmdArg v := BitVec.extractLsb'_and

theorem entryArg_argEntry (arg : BitVec 64) : entryArg (argEntry arg) = arg := by
  have hjoin := @BitVec.extractLsb'_append_extractLsb'_eq_extractLsb'
  change argByte arg 7 ++ argByte arg 6 ++ argByte arg 5 ++ argByte arg 4 ++ argByte arg 3 ++ argByte arg 2 ++
    argByte arg 1 ++ argByte arg 0 = arg
  simp only [argByte]
  rw [hjoin, hjoin, hjoin, hjoin, hjoin, hjoin, hjoin, BitVec.extractLsb'_eq_self] <;> rfl

/-- The argument of SETREP, its two bytes taken together. -/
theorem setrep_arg_assoc (threshold timeout : BitVec 8) :
    (0 : BitVec 48) ++ timeout ++ threshold = 0#48 ++ (timeout ++ threshold) := BitVec.append_assoc

/-- No operation ignores its own code. -/
@[simp] theorem cmdOp_usedBits (n : Nat) : cmdOp (usedBits n) = BitVec.allOnes 4 := by
  unfold usedBits
  split <;> decide

/-- Clearing the ignored bits, field by field. -/
theorem and_usedBits_eq_cmdWord (w : CmdWord) (n : Nat) : w &&& usedBits n =
    cmdWord (cmdOp w) (cmdMs w &&& cmdMs (usedBits n)) (cmdArg w &&& cmdArg (usedBits n)) := by
  rw [← cmdWord_fields (w &&& usedBits n), cmdOp_and, cmdMs_and, cmdArg_and, cmdOp_usedBits, BitVec.and_allOnes]

/-! ### A field under its mask: used whole, not at all, or in its low bits -/

theorem and_whole {n : Nat} {m : BitVec n} (hm : m = BitVec.allOnes n) (x : BitVec n) : x &&& m = x := by
  rw [hm, BitVec.and_allOnes]

theorem and_unused {n : Nat} {m : BitVec n} (hm : m = 0#n) (x : BitVec n) : x &&& m = 0#n := by
  rw [hm, BitVec.and_zero]

theorem and_low {k n : Nat} {m : BitVec (k + n)} (hm : m = 0#k ++ BitVec.allOnes n) (x : BitVec (k + n)) :
    x &&& m = 0#k ++ x.extractLsb' 0 n := by
  have hx : x.extractLsb' n k ++ x.extractLsb' 0 n = x := by
    rw [BitVec.extractLsb'_append_extractLsb'_eq_extractLsb' (Nat.zero_add n).symm, BitVec.extractLsb'_eq_self]
  calc x &&& m
    _ = (x.extractLsb' n k ++ x.extractLsb' 0 n) &&& (0#k ++ BitVec.allOnes n) := by rw [hx, hm]
    _ = 0#k ++ x.extractLsb' 0 n := by rw [BitVec.and_append, BitVec.and_allOnes, BitVec.and_zero]

theorem append_and_low {k n : Nat} {m : BitVec (k + n)} (hm : m = 0#k ++ BitVec.allOnes n) (x : BitVec n) :
    (0#k ++ x) &&& m = 0#k ++ x := by
  rw [hm, BitVec.and_append, BitVec.and_self, BitVec.and_allOnes]

/-- A part of a field that lies under the mask is read unchanged. -/
theorem extractLsb'_and_used {n start len : Nat} {m : BitVec n} (hm : m.extractLsb' start len = BitVec.allOnes len)
    (x : BitVec n) : (x &&& m).extractLsb' start len = x.extractLsb' start len := by
  rw [BitVec.extractLsb'_and, hm, BitVec.and_allOnes]

/-! ### Decoding reads the used bits alone -/

theorem decodeOp_and_usedBits (n : Nat) (ms : Time) (arg : BitVec 64) :
    decodeOp n (ms &&& cmdMs (usedBits n)) (arg &&& cmdArg (usedBits n)) = decodeOp n ms arg := by
  match n with
  | 0x4 => exact congrArg Instr.since (and_whole (by decide) ms)
  | 0x5 => exact congrArg₂ Instr.setrep (extractLsb'_and_used (by decide) arg) (extractLsb'_and_used (by decide) arg)
  | 0x6 => exact congrArg (Instr.addpair <| argEntry ·) (and_whole (by decide) arg)
  | 0x7 => exact congrArg₂ Instr.pairbeg (extractLsb'_and_used (by decide) arg) (and_whole (by decide) ms)
  | 0x8 => exact congrArg Instr.getpair (extractLsb'_and_used (by decide) arg)
  | 0xB => exact congrArg Instr.setstat (extractLsb'_and_used (by decide) arg)
  | 0x0 | 0x1 | 0x2 | 0x3 | 0x9 | 0xA | 0xC | 0xD | 0xE | _ + 15 => rfl

theorem decode_and_usedBits (w : CmdWord) : decode (.host (w &&& usedBits (cmdOp w).toNat)) = decode (.host w) := by
  simp only [decode, decodeCmd, cmdOp_and, cmdMs_and, cmdArg_and, cmdOp_usedBits, BitVec.and_allOnes,
    decodeOp_and_usedBits]

/-! ### Encoding what was decoded clears the ignored bits -/

theorem encode_decodeOp (n : Nat) (hn : n < 16) (ms : Time) (arg : BitVec 64) : encode (decodeOp n ms arg) =
    .host (cmdWord (BitVec.ofNat 4 n) (ms &&& cmdMs (usedBits n)) (arg &&& cmdArg (usedBits n))) := by
  match n with
  | 0x4 => rw [and_whole (by decide) ms, and_unused (by decide) arg]; rfl
  | 0x5 =>
    have hbytes : argByte arg 1 ++ argByte arg 0 = arg.extractLsb' 0 16 :=
      BitVec.extractLsb'_append_extractLsb'_eq_extractLsb' rfl
    rw [and_unused (by decide) ms, and_low (k := 48) (n := 16) (by decide) arg, ← hbytes]
    exact congrArg (Request.host <| cmdWord 0x5 0 ·) (setrep_arg_assoc (argByte arg 0) (argByte arg 1))
  | 0x6 =>
    rw [and_unused (by decide) ms, and_whole (by decide) arg]
    exact congrArg (Request.host <| cmdWord 0x6 0 ·) (entryArg_argEntry arg)
  | 0x7 => rw [and_whole (by decide) ms, and_low (k := 56) (n := 8) (by decide) arg]; rfl
  | 0x8 => rw [and_unused (by decide) ms, and_low (k := 56) (n := 8) (by decide) arg]; rfl
  | 0xB => rw [and_unused (by decide) ms, and_low (k := 63) (n := 1) (by decide) arg]; rfl
  | 0x0 | 0x1 | 0x2 | 0x3 | 0x9 | 0xA | 0xC | 0xD | 0xE | 0xF =>
    rw [and_unused (by decide) ms, and_unused (by decide) arg]; rfl
  | _ + 16 => omega

theorem encode_decode_host (w : CmdWord) : encode (decode (.host w)) = .host (w &&& usedBits (cmdOp w).toNat) := by
  rw [and_usedBits_eq_cmdWord, decode, decodeCmd, encode_decodeOp _ (cmdOp w).isLt, BitVec.ofNat_toNat,
    BitVec.setWidth_eq]

theorem decode_host_eq_iff (w v : CmdWord) : decode (.host w) = decode (.host v) ↔
    w &&& usedBits (cmdOp w).toNat = v &&& usedBits (cmdOp v).toNat where
  mp h := by
    have hencode : encode (decode (.host w)) = encode (decode (.host v)) := congrArg encode h
    rw [encode_decode_host, encode_decode_host] at hencode
    exact Request.host.inj hencode
  mpr h := by rw [← decode_and_usedBits w, h, decode_and_usedBits v]

/-! ### Canonical words -/

theorem canonicalCmd_cmdWord (op : BitVec 4) (ms : Time) (arg : BitVec 64) (hms : ms &&& cmdMs (usedBits op.toNat) = ms)
    (harg : arg &&& cmdArg (usedBits op.toNat) = arg) : canonicalCmd (cmdWord op ms arg) = true := by
  rw [canonicalCmd, and_usedBits_eq_cmdWord, cmdOp_cmdWord, cmdMs_cmdWord, cmdArg_cmdWord, hms, harg, beq_self_eq_true]

theorem canonicalCmd_of_encode (i : Instr) (w : CmdWord) (h : encode i = .host w) : canonicalCmd w = true := by
  cases i with
  | edge level ts ms => cases h
  | since ms =>
    obtain rfl := Request.host.inj h
    exact canonicalCmd_cmdWord _ _ _ (and_whole (by decide) ms) BitVec.zero_and
  | setrep threshold timeout =>
    obtain rfl := Request.host.inj h
    rw [setrep_arg_assoc]
    exact canonicalCmd_cmdWord _ _ _ BitVec.zero_and (append_and_low (by decide) (timeout ++ threshold))
  | addpair e =>
    obtain rfl := Request.host.inj h
    exact canonicalCmd_cmdWord _ _ _ BitVec.zero_and (and_whole (by decide) _)
  | pairbeg timeout ms =>
    obtain rfl := Request.host.inj h
    exact canonicalCmd_cmdWord _ _ _ (and_whole (by decide) ms) (append_and_low (by decide) timeout)
  | getpair index =>
    obtain rfl := Request.host.inj h
    exact canonicalCmd_cmdWord _ _ _ BitVec.zero_and (append_and_low (by decide) index)
  | setstat enable =>
    obtain rfl := Request.host.inj h
    exact canonicalCmd_cmdWord _ _ _ BitVec.zero_and (append_and_low (by decide) enable)
  | _ =>
    obtain rfl := Request.host.inj h
    rfl

/-- Settles O2: both directions through the word whose ignored bits are cleared, and the canonical words one operation
at a time. -/
theorem ignoredBitsDoNotMatter : Obligations.IgnoredBitsDoNotMatter :=
  ⟨decode_host_eq_iff, canonicalCmd_of_encode⟩

end Sys2Proof
end

section
/-! The edge word: its three fields as quotients and remainders of its value (R81, R82). -/

namespace Sys2Proof

theorem toNat_extractLsb'_eq_div_mod {n : Nat} (start len : Nat) (w : BitVec n) :
    (w.extractLsb' start len).toNat = w.toNat / 2 ^ start % 2 ^ len := by
  rw [BitVec.extractLsb'_toNat, Nat.shiftRight_eq_div_pow]

/-- Settles O3: the three fields of the decoder as numbers; `level` is the top bit, so nothing is cut off above it. -/
theorem everyEdgeWordIsAnEdge : Obligations.EveryEdgeWordIsAnEdge := by
  unfold Obligations.EveryEdgeWordIsAnEdge
  intro w
  have hw : w.toNat < 2 ^ 65 := w.isLt
  have hlevel := toNat_extractLsb'_eq_div_mod 64 1 w
  have hms := toNat_extractLsb'_eq_div_mod 0 32 w
  exact ⟨_, _, _, rfl, by omega, toNat_extractLsb'_eq_div_mod 32 32 w, by omega⟩

end Sys2Proof
end

section
/-! The five reserved codes (R91, R211): their common effect, and the words that decode to them. -/

namespace Sys2Proof.Machine

/-- The reserved operations of R211. -/
def IsReserved (i : Instr) : Prop :=
  i = .reserved0 ∨ i = .reserved2 ∨ i = .reservedD ∨ i = .reservedE ∨ i = .reservedF

theorem respondReserved_eq (s : State) : respondReserved s = .next { s with resp := some 0 } := by
  have hzero : respWord false 0 0 = 0 := by decide
  rw [respondReserved, respond, hzero]

theorem exec_of_isReserved (s : State) (i : Instr) (hi : IsReserved i) :
    exec i s = .next { s with resp := some 0 } := by
  rw [← respondReserved_eq]
  rcases hi with rfl | rfl | rfl | rfl | rfl <;> rfl

theorem isReserved_decode (w : CmdWord)
    (hw : cmdOp w = 0x0 ∨ cmdOp w = 0x2 ∨ cmdOp w = 0xD ∨ cmdOp w = 0xE ∨ cmdOp w = 0xF) :
    IsReserved (decode (.host w)) := by
  unfold IsReserved decode decodeCmd
  rcases hw with h | h | h | h | h <;> simp [h, decodeOp]

/-- Settles O54: the reserved operations share one effect, and a word with a reserved code decodes to one of them,
whatever its other bits are. -/
theorem reservedCodesDoNothing : Obligations.ReservedCodesDoNothing :=
  ⟨exec_of_isReserved, fun s w hw => exec_of_isReserved s _ (isReserved_decode w hw)⟩

end Sys2Proof.Machine
end

section
/-! The classifier on numbers (R101): its four comparators read the whole duration, and each bucket is a pair of
adjacent event codes of which `level` selects one. -/

namespace Sys2Proof.Machine

/-- The comparators of R101 as comparisons of natural numbers. -/
theorem classify_eq (level : BitVec 1) (dur : Time) : classify level dur =
    if dur.toNat < 120 then byLevel level .n0 .n1
    else if dur.toNat < 500 then byLevel level .s0 .s1
    else if dur.toNat < 2000 then byLevel level .l0 .l1
    else if dur.toNat > 5000 then byLevel level .g0 .g1
    else .x := by
  simp only [classify, gt_iff_lt, BitVec.lt_def]
  rfl

/-- `ev = base + level` in a bucket whose two codes are adjacent. -/
theorem byLevel_code_toNat (level : BitVec 1) (low high : Event) (h : high.code.toNat = low.code.toNat + 1) :
    (byLevel level low high).code.toNat = level.toNat + low.code.toNat := by
  rcases BitVec.eq_zero_or_eq_one level with rfl | rfl
  · exact (Nat.zero_add _).symm
  · exact h.trans (Nat.add_comm _ _)

/-- Settles O15: bucket by bucket; the events of a bucket have adjacent codes, and the illegal event ignores the
level. -/
theorem classifierCodes : Obligations.ClassifierCodes := by
  unfold Obligations.ClassifierCodes
  intro level dur
  rw [classify_eq]
  split_ifs with noise short long gap
  · exact byLevel_code_toNat level .n0 .n1 rfl
  · exact byLevel_code_toNat level .s0 .s1 rfl
  · exact byLevel_code_toNat level .l0 .l1 rfl
  · exact byLevel_code_toNat level .g0 .g1 rfl
  · rfl

end Sys2Proof.Machine
end

section
/-! EDGE and its enable (R100, R107). -/

namespace Sys2Proof.Machine

theorem exec_edge (level : BitVec 1) (ts ms : Time) (s : State) :
    exec (.edge level ts ms) s = .next (if s.enabled then edgeFrontEnd level ts ms s else s) := rfl

/-- Settles O17: with ENABLED clear, EDGE takes the branch that returns its state. -/
theorem disabledEdgeHasNoEffect : Obligations.DisabledEdgeHasNoEffect := by
  unfold Obligations.DisabledEdgeHasNoEffect
  intro s level ts ms h
  rw [exec_edge, h, if_neg Bool.false_ne_true]

end Sys2Proof.Machine
end

section
/-! The decode FSM before a byte is received: Idle, MSF and BSF (R120 to R129). An enabled EDGE is one transition of its
event on the state with the new PREV_TS; in each state a few events have a row of their own and all others share one. -/

namespace Sys2Proof.Machine

/-! ### An enabled EDGE is one transition, by DSTATE -/

theorem exec_edge_of_enabled {s : State} (level : BitVec 1) (ts ms : Time) (he : s.enabled = true) :
    exec (.edge level ts ms) s = .next (fsmStep (classify level (sub32 ts s.prevTs)) (sub32 ts s.prevTs) ms
      { s with prevTs := ts }) := by
  rw [exec_edge, if_pos he, edgeFrontEnd]

theorem fsmStep_of_idle {s : State} (ev : Event) (dur ms : Time) (hd : s.dstate = .idle) :
    fsmStep ev dur ms s = idleStep ev s := by
  rw [fsmStep, hd]

theorem fsmStep_of_msf {s : State} (ev : Event) (dur ms : Time) (hd : s.dstate = .msf) :
    fsmStep ev dur ms s = msfStep ev s := by
  rw [fsmStep, hd]

theorem fsmStep_of_bsf {s : State} (ev : Event) (dur ms : Time) (hd : s.dstate = .bsf) :
    fsmStep ev dur ms s = bsfStep ev s := by
  rw [fsmStep, hd]

/-! ### The events without a row of their own -/

theorem idleStep_of_ne {ev : Event} (s : State) (hg1 : ev ≠ .g1) : idleStep ev s = s := by
  cases ev with
  | g1 => exact absurd rfl hg1
  | _ => rfl

theorem msfStep_of_ne {ev : Event} (s : State) (hs0 : ev ≠ .s0) (hs1 : ev ≠ .s1) : msfStep ev s = resync s := by
  cases ev with
  | s0 => exact absurd rfl hs0
  | s1 => exact absurd rfl hs1
  | _ => rfl

theorem bsfStep_of_ne {ev : Event} (s : State) (hs0 : ev ≠ .s0) (hs1 : ev ≠ .s1) (hl1 : ev ≠ .l1) :
    bsfStep ev s = resync s := by
  cases ev with
  | s0 => exact absurd rfl hs0
  | s1 => exact absurd rfl hs1
  | l1 => exact absurd rfl hl1
  | _ => rfl

/-! ### The transitions of each state -/

/-- Settles O19: event 7 has the one row that leaves Idle. -/
theorem idleTransitions : Obligations.IdleTransitions := by
  unfold Obligations.IdleTransitions
  intro s level ts ms he hd
  have hstep := (exec_edge_of_enabled level ts ms he).trans (congrArg _ (fsmStep_of_idle _ _ ms hd))
  refine ⟨fun hg1 => ?_, fun hg1 => ?_⟩
  · rw [hstep, hg1, idleStep]
  · rw [hstep, idleStep_of_ne _ hg1]

/-- Settles O20: events 2 and 3 have rows of their own, and every other event resynchronises. -/
theorem messageStartTransitions : Obligations.MessageStartTransitions := by
  unfold Obligations.MessageStartTransitions
  intro s level ts ms he hd
  have hstep := (exec_edge_of_enabled level ts ms he).trans (congrArg _ (fsmStep_of_msf _ _ ms hd))
  refine ⟨fun hs0 => ?_, fun hs1 => ?_, fun hs0 hs1 => ?_⟩
  · rw [hstep, hs0, msfStep]
  · rw [hstep, hs1, msfStep]
  · rw [hstep, msfStep_of_ne _ hs0 hs1, resync]

/-- Settles O21: events 2, 3 and 5 have rows of their own, and every other event resynchronises. -/
theorem byteStartTransitions : Obligations.ByteStartTransitions := by
  unfold Obligations.ByteStartTransitions
  intro s level ts ms he hd
  have hstep := (exec_edge_of_enabled level ts ms he).trans (congrArg _ (fsmStep_of_bsf _ _ ms hd))
  refine ⟨fun hs0 => ?_, fun hs1 => ?_, fun hl1 => ?_, fun hs0 hs1 hl1 => ?_⟩
  · rw [hstep, hs0, bsfStep]
  · rw [hstep, hs1, bsfStep]
  · rw [hstep, hl1, bsfStep]
  · rw [hstep, bsfStep_of_ne _ hs0 hs1 hl1, resync]

end Sys2Proof.Machine
end

section
/-! Finalization on numbers (R152 to R159): the repeat count, and the three outcomes of `finalize_cases` by the
threshold, the session timeout and the elapsed time. Steps 2 to 4 are `recordCandidate` in every outcome. -/

namespace Sys2Proof.Machine

/-! ### The repeat count -/

/-- R14 without the name `units`. -/
theorem windowExceeded_iff_div (e : Time) (t : BitVec 8) : windowExceeded e t = true ↔ e.toNat / 100 > t.toNat :=
  windowExceeded_iff_units e t

theorem message_eq_iff (m n : Message) : m = n ↔ ∀ i : Fin 10, m[i] = n[i] :=
  ⟨fun h i => congrArg (·[i]) h, fun h => Vector.ext fun i hi => h ⟨i, hi⟩⟩

theorem repeatEnabled_iff (s : State) : repeatEnabled s = true ↔ s.repeatThresh.toNat ≠ 0 :=
  bne_iff_ne.trans BitVec.toNat_ne_iff_ne.symm

/-- Steps 2 and 3 as the spec writes them: the thresholds and times as numbers, the buffers byte by byte. -/
theorem nextRepeatCnt_eq (now : Time) (s : State) :
    nextRepeatCnt now s =
      if s.repeatThresh.toNat = 0 then 0
      else if (sub32 now s.lastPktTime).toNat / 100 > s.repeatTimeout.toNat then 1
      else if ∀ i : Fin 10, s.buf[i] = s.msg[i] then BitVec.ofNat 9 (min (s.repeatCnt.toNat + 1) 256)
      else 1 := by
  simp only [nextRepeatCnt, repeatEnabled_iff, windowExceeded_iff_div, message_eq_iff, satinc, ite_not]

/-- Settles O29: finalization leaves the three registers as steps 2 to 4 wrote them. -/
theorem repeatCountRule : Obligations.RepeatCountRule := fun ms s =>
  ⟨(finalize_repeatCnt ms s).trans (nextRepeatCnt_eq ms s), finalize_lastPktTime ms s, finalize_msg ms s⟩

/-! ### The conditions of steps 5 and 6 -/

/-- Step 5 compares the threshold with the new count (R155). -/
theorem eligible_recordCandidate_iff (ms : Time) (s : State) :
    eligible (recordCandidate ms s) = true ↔
      s.repeatThresh = 0 ∨ s.repeatThresh.toNat = (finalize ms s).repeatCnt.toNat := by
  have hwidth : (s.repeatThresh.setWidth 9).toNat = s.repeatThresh.toNat :=
    BitVec.toNat_setWidth_of_le (by decide)
  rw [finalize_repeatCnt, ← hwidth, BitVec.toNat_inj]
  simp [eligible]

theorem pairingActive_iff (s : State) : pairingActive s = true ↔ s.pairTimeout ≠ 0 := bne_iff_ne

/-! ### The outcomes -/

/-- Settles O30: the eligible outcomes contradict the threshold, and an ineligible candidate is only recorded. -/
theorem ineligibleCandidateStops : Obligations.IneligibleCandidateStops := by
  unfold Obligations.IneligibleCandidateStops
  rintro ms s _ rfl hthresh hcnt
  have hinel : ¬ eligible (recordCandidate ms s) = true :=
    mt (eligible_recordCandidate_iff ms s).1 (not_or.2 ⟨hthresh, hcnt⟩)
  rw [finalize_repeatCnt]
  rcases finalize_cases ms s with ⟨-, hrec⟩ | ⟨hel, -⟩ | ⟨hel, -⟩
  · exact hrec
  · exact absurd hel hinel
  · exact absurd hel hinel

/-- Settles O31: the session is active and its window open, so the outcome is the capture, which leaves the flag and
the ended session alone. -/
theorem captureWithinWindow : Obligations.CaptureWithinWindow := by
  unfold Obligations.CaptureWithinWindow
  rintro ms s _ rfl helig hactive hwindow
  have hel := (eligible_recordCandidate_iff ms s).2 helig
  have hact := (pairingActive_iff s).2 hactive
  have hopen := mt (windowExceeded_iff_div (sub32 ms s.pairStart) s.pairTimeout).1 hwindow.not_gt
  rcases finalize_cases ms s with ⟨hinel, -⟩ | ⟨-, -, -, hcap⟩ | ⟨-, hinactive | hexp, -⟩
  · exact absurd (hinel.symm.trans hel) Bool.false_ne_true
  · rw [finalize_repeatCnt, hcap]
    exact ⟨rfl, addEntry_msgReady .., addEntry_pairTimeout ..⟩
  · exact absurd (hinactive.symm.trans hact) Bool.false_ne_true
  · exact absurd hexp hopen

/-- Settles O32: no session is active or its window is over, so the outcome is the membership test. -/
theorem membershipPublishes : Obligations.MembershipPublishes := by
  unfold Obligations.MembershipPublishes
  rintro ms s _ rfl helig hnocapture
  have hel := (eligible_recordCandidate_iff ms s).2 helig
  rcases finalize_cases ms s with ⟨hinel, -⟩ | ⟨-, hact, hopen, -⟩ | ⟨-, -, hpub⟩
  · exact absurd (hinel.symm.trans hel) Bool.false_ne_true
  · rcases hnocapture with hnone | hover
    · exact absurd hnone ((pairingActive_iff s).1 hact)
    · exact absurd (hopen.symm.trans ((windowExceeded_iff_div _ _).2 hover)) Bool.false_ne_true
  · rw [finalize_repeatCnt]
    exact hpub

end Sys2Proof.Machine
end

section
/-! The pair store's tests and its read access (R170 to R172, R177): the don't-care byte, the CAM, membership, and the
bytes of an entry in the response of GETPAIR. -/

namespace Sys2Proof.Machine

open Sys2Proof.Safety

/-! ### Match and membership -/

/-- R170 index by index: every byte but byte 1. -/
theorem entryMatch_iff (e f : Entry) : entryMatch e f = true ↔ ∀ i : Fin 8, i ≠ 1 → e[i] = f[i] := by
  simp [entryMatch, Fin.forall_fin_succ, and_assoc]

theorem entry_eq_getElem {s : State} {k : Nat} (hk : k < s.pair.length) : entry s k = s.pair[k] :=
  List.getD_eq_getElem s.pair _ hk

/-- R171: the CAM looks at the entries below the count. -/
theorem matchAny_iff {s : State} (hcount : s.pairCount.toNat ≤ s.pair.length) (e : Entry) :
    matchAny s e = true ↔ ∃ k, k < s.pairCount.toNat ∧ entryMatch (entry s k) e = true := by
  rw [matchAny, List.any_eq_true]
  constructor
  · rintro ⟨f, hf, hmatch⟩
    obtain ⟨k, hk, rfl⟩ := List.mem_take_iff_getElem.1 hf
    obtain ⟨hvalid, hlen⟩ := lt_min_iff.1 hk
    exact ⟨k, hvalid, by rwa [entry_eq_getElem hlen]⟩
  · rintro ⟨k, hk, hmatch⟩
    have hlen : k < s.pair.length := hk.trans_le hcount
    rw [entry_eq_getElem hlen] at hmatch
    exact ⟨_, List.mem_take_iff_getElem.2 ⟨k, lt_min hk hlen, rfl⟩, hmatch⟩

theorem member_iff (s : State) (e : Entry) : member s e = true ↔ s.pairCount = 0 ∨ matchAny s e = true := by
  rw [member, Bool.or_eq_true, beq_iff_eq]

/-- Settles O35: one lemma for each of the three tests. -/
theorem membershipTest : Obligations.MembershipTest :=
  ⟨entryMatch_iff, fun _ e hcount => matchAny_iff hcount e, member_iff⟩

/-! ### An entry as response data -/

/-- Above its lowest byte, a word is the word without that byte. -/
theorem extractLsb'_append_byte {n : Nat} (x : BitVec n) (b : Byte) (k len : Nat) :
    (x ++ b).extractLsb' (8 * (k + 1)) len = x.extractLsb' (8 * k) len :=
  BitVec.extractLsb'_append_eq_of_le (Nat.le_add_left 8 (8 * k))

/-- R87: byte `i` of the entry is byte `i` of the data, once the `i` bytes below it are dropped. -/
theorem extractLsb'_entryData (e : Entry) (i : Fin 8) : (entryData e).extractLsb' (8 * i.val) 8 = e[i] := by
  unfold entryData
  match i with
  | ⟨0, _⟩ => exact BitVec.extractLsb'_append_eq_right
  | ⟨1, _⟩ | ⟨2, _⟩ | ⟨3, _⟩ | ⟨4, _⟩ | ⟨5, _⟩ | ⟨6, _⟩ | ⟨7, _⟩ =>
    repeat rw [extractLsb'_append_byte]
    exact BitVec.extractLsb'_append_eq_right

/-- R87: above the eight bytes of the entry the data is zero. -/
theorem entryData_toNat_lt (e : Entry) : (entryData e).toNat < 2 ^ 64 := by
  have hupper : (entryData e).extractLsb' (8 * 8) 80 = 0#80 := by
    unfold entryData
    repeat rw [extractLsb'_append_byte]
    exact BitVec.extractLsb'_eq_self
  have hquot := toNat_extractLsb'_eq_div_mod (8 * 8) 80 (entryData e)
  rw [hupper, BitVec.toNat_zero] at hquot
  have hlt : (entryData e).toNat < 2 ^ 144 := (entryData e).isLt
  omega

/-! ### GETPAIR -/

theorem getEntry_of_lt {s : State} {index : BitVec 8} (h : index.toNat < s.pairCount.toNat) :
    getEntry s index = (true, entry s index.toNat) :=
  if_pos (BitVec.lt_def.2 h)

theorem getEntry_of_le {s : State} {index : BitVec 8} (h : s.pairCount.toNat ≤ index.toNat) :
    getEntry s index = (false, Vector.replicate 8 0) :=
  if_neg (mt BitVec.lt_def.1 h.not_gt)

theorem exec_getpair (s : State) (index : BitVec 8) : exec (.getpair index) s =
    .next (respond s (getEntry s index).1 s.pairCount (entryData (getEntry s index).2)) := rfl

/-- Settles O39: the data of a valid index is the entry packed by `entryData`, that of any other index is zero. -/
theorem getpairReadsAnEntry : Obligations.GetpairReadsAnEntry := by
  unfold Obligations.GetpairReadsAnEntry
  intro s index
  refine ⟨fun hvalid => ⟨entryData (entry s index.toNat), ?_, extractLsb'_entryData _, entryData_toNat_lt _⟩,
    fun hinvalid => ?_⟩
  · rw [exec_getpair, getEntry_of_lt hvalid, respond]
  · have hzero : entryData (Vector.replicate 8 0) = 0 := by decide
    rw [exec_getpair, getEntry_of_le hinvalid, hzero, respond]

end Sys2Proof.Machine
end

section
/-! The commands that change the pair store (R173, R175, R176). What each leaves in the registers is the equation of the
shared operation it calls; what it leaves in NV is read off the writes it makes. -/

namespace Sys2Proof.Machine

open Sys2Proof.Safety

/-! ### The persisted count -/

/-- Writing the count leaves every other byte of the store (R61). -/
theorem read_write_ne (m : Memory) {p a : NvAddr} (b : Byte) (ha : a ≠ p) :
    (m.write p.toNat b).read a.toNat = m.read a.toNat :=
  Memory.read_write_other m _ _ b (BitVec.toNat_ne_iff_ne.2 ha)

/-! ### CLRPAIR -/

theorem exec_clrpair (s : State) : exec .clrpair s = .next (respond (clearPairs s) true 0 0) := rfl

/-- R172: with a count of zero everything is a member. -/
theorem member_of_pairCount_eq_zero {s : State} (h : s.pairCount = 0) (e : Entry) : member s e = true :=
  (member_iff s e).2 (.inl h)

/-- Settles O38: CLRPAIR is one write of NV, at the count. -/
theorem clrpairZeroesTheCount : Obligations.ClrpairZeroesTheCount := by
  unfold Obligations.ClrpairZeroesTheCount
  intro s hwf
  exact ⟨_, exec_clrpair s, rfl, Memory.read_write_same s.nv _ 0 hwf, fun _ ha => read_write_ne s.nv 0 ha,
    member_of_pairCount_eq_zero rfl⟩

/-! ### ADDPAIR -/

theorem exec_addpair (s : State) (e : Entry) : exec (.addpair e) s =
    .next (respond (addEntry s e) true (addEntry s e).pairCount 0) := rfl

/-- R8: a store with capacity left has fewer than 255 entries, so its count does not wrap. -/
theorem pairCount_lt_of_capacity {s : State} (hinv : Invariants s) (hcap : s.pairCount.toNat < s.cfg.maxPairs) :
    s.pairCount.toNat < 255 := by
  have hcfg := hinv.cfg_wf
  simp only [Config.Params.wf, Bool.and_eq_true, decide_eq_true_eq] at hcfg
  omega

theorem pairCount_succ_toNat {s : State} (hlt : s.pairCount.toNat < 255) :
    (s.pairCount + 1).toNat = s.pairCount.toNat + 1 :=
  BitVec.toNat_add_of_lt (Nat.succ_lt_succ hlt)

/-- The entry just written to the register file. -/
theorem entry_set_self {s t : State} {k : Nat} {e : Entry} (ht : t.pair = s.pair.set k e) (hk : k < s.pair.length) :
    entry t k = e := by
  rw [entry, ht, List.getD_eq_getElem _ _ (by rwa [List.length_set]), List.getElem_set_self]

/-- Settles O36: an append by `addEntry_append` with `appendWrites_cases` for the store, and the rest by
`addEntry_noop`. -/
theorem addpairAppendsOrDoesNothing : Obligations.AddpairAppendsOrDoesNothing := by
  unfold Obligations.AddpairAppendsOrDoesNothing
  refine ⟨?_, fun s e hnoop => ?_⟩
  · rintro s e _ hinv rfl hmatch hcap
    have hlt := pairCount_lt_of_capacity hinv hcap
    obtain ⟨hcount, hbytes, hother⟩ := appendWrites_cases s.cfg s.pairCount.toNat e (s.pairCount + 1) s.nv hinv.nv_wf
      (by omega)
    refine ⟨_, exec_addpair s e, ?_⟩
    rw [addEntry_append s e hmatch hcap]
    exact ⟨rfl, pairCount_succ_toNat hlt, entry_set_self rfl (hinv.pair_length ▸ hcap), hbytes, hcount,
      fun a h0 hi => hother a.toNat (BitVec.toNat_ne_iff_ne.2 h0) fun i => BitVec.toNat_ne_iff_ne.2 (hi i)⟩
  · rw [exec_addpair, addEntry_noop s e hnoop, respond]

/-! ### INIT -/

theorem exec_init (s : State) : exec .init s =
    .next (respond { restore s with enabled := true } true (restore s).pairCount 0) := rfl

theorem restore_of_le {s : State} (hle : (nvByte s 0).toNat ≤ s.cfg.maxPairs) :
    restore s = { s with
      pairCount := nvByte s 0
      pair := (loadEntries s (nvByte s 0).toNat).pair
      nvPort := s.nvPort ++ restoreAccesses s (nvByte s 0).toNat } := by
  rcases restore_cases s with ⟨-, hrestore⟩ | ⟨hgt, -⟩
  · rw [hrestore, restoreAccesses_eq, List.append_assoc, List.singleton_append]
  · exact absurd hle hgt.not_ge

theorem restore_of_gt {s : State} (hgt : (nvByte s 0).toNat > s.cfg.maxPairs) :
    restore s = { s with
      pairCount := 0
      nv := s.nv.write (nvAddr s.cfg 0).toNat 0
      nvPort := s.nvPort ++ [.read (nvAddr s.cfg 0) (nvByte s 0), .write (nvAddr s.cfg 0) 0] } := by
  rcases restore_cases s with ⟨hle, -⟩ | ⟨-, hrestore⟩
  · exact absurd hgt hle.not_gt
  · exact hrestore

theorem entry_of_lt_of_loadEntries {s t : State} {n k : Nat} (ht : t.pair = (loadEntries s n).pair) (hk : k < n)
    (hlen : k < s.pair.length) (i : Fin 8) : (entry t k)[i] = nvByte s (entryOffset k i) := by
  rw [entry, ht, loadEntries_pair_getD, if_pos ⟨hk, hlen⟩, nvEntry_get]

theorem entry_of_ge_of_loadEntries {s t : State} {n k : Nat} (ht : t.pair = (loadEntries s n).pair) (hk : n ≤ k) :
    entry t k = entry s k := by
  rw [entry, ht, loadEntries_pair_getD, if_neg fun h => hk.not_gt h.1, entry]

/-- Settles O37: the two branches of `restore`; the register file holds `nvEntry` below the persisted count and what it
held before above it. -/
theorem initRestoresOrEmptiesTheStore : Obligations.InitRestoresOrEmptiesTheStore := by
  unfold Obligations.InitRestoresOrEmptiesTheStore
  refine ⟨fun s hinv hle => ⟨_, exec_init s, ?_⟩, fun s hwf hgt => ⟨_, exec_init s, ?_⟩⟩
  · rw [restore_of_le hle]
    exact ⟨rfl, loadEntries_pair_length s _,
      fun k hk => entry_of_lt_of_loadEntries rfl hk (hinv.pair_length ▸ hk.trans_le hle),
      fun k hk => entry_of_ge_of_loadEntries rfl hk⟩
  · rw [restore_of_gt hgt]
    exact ⟨rfl, Memory.read_write_same s.nv _ 0 hwf, fun _ ha => read_write_ne s.nv 0 ha⟩

end Sys2Proof.Machine
end

section
/-! The statistics block (R190 to R196): one sample of a class counter by counter, and the operations that change STAT.
In the FSM only the rows of GB for events 2, 3 and 5 sample; what follows a sample there, and every command but
SETSTAT 0, keeps STAT. -/

namespace Sys2Proof.Machine

open Sys2Proof.Safety

/-! ### One sample -/

theorem newMax_toNat (old x : BitVec 16) : (newMax old x).toNat = max old.toNat x.toNat := by
  unfold newMax
  split_ifs with hlt
  · exact (max_eq_right (BitVec.lt_def.1 hlt).le).symm
  · exact (max_eq_left (BitVec.not_lt.1 hlt)).symm

theorem newMin_toNat (old x : BitVec 16) : (newMin old x).toNat = min old.toNat x.toNat := by
  unfold newMin
  split_ifs with hlt
  · exact (min_eq_right (BitVec.lt_def.1 hlt).le).symm
  · exact (min_eq_left (BitVec.not_lt.1 hlt)).symm

theorem maxIdx_ne_minIdx (c : StatClass) : c.maxIdx ≠ c.minIdx := by
  cases c <;> decide

theorem maxIdx_ne_avgIdx (c : StatClass) : c.maxIdx ≠ c.avgIdx := by
  cases c <;> decide

theorem minIdx_ne_avgIdx (c : StatClass) : c.minIdx ≠ c.avgIdx := by
  cases c <;> decide

/-- A sample writes three counters, the average last. -/
theorem getElem_sampleClass (st : StatBlock) (c : StatClass) (x : BitVec 16) (j : Fin 9) :
    (sampleClass st c x)[j] =
      if c.avgIdx = j then ema st[c.avgIdx] x
      else if c.minIdx = j then newMin st[c.minIdx] x
      else if c.maxIdx = j then newMax st[c.maxIdx] x
      else st[j] := by
  simp only [sampleClass, Fin.getElem_fin, Vector.getElem_set, Fin.ext_iff]

theorem getElem_maxIdx_sampleClass (st : StatBlock) (c : StatClass) (x : BitVec 16) :
    (sampleClass st c x)[c.maxIdx] = newMax st[c.maxIdx] x := by
  rw [getElem_sampleClass, if_neg (maxIdx_ne_avgIdx c).symm, if_neg (maxIdx_ne_minIdx c).symm, if_pos rfl]

theorem getElem_minIdx_sampleClass (st : StatBlock) (c : StatClass) (x : BitVec 16) :
    (sampleClass st c x)[c.minIdx] = newMin st[c.minIdx] x := by
  rw [getElem_sampleClass, if_neg (minIdx_ne_avgIdx c).symm, if_pos rfl]

theorem getElem_avgIdx_sampleClass (st : StatBlock) (c : StatClass) (x : BitVec 16) :
    (sampleClass st c x)[c.avgIdx] = ema st[c.avgIdx] x := by
  rw [getElem_sampleClass, if_pos rfl]

theorem getElem_sampleClass_of_ne (st : StatBlock) (c : StatClass) (x : BitVec 16) {j : Fin 9} (hmax : j ≠ c.maxIdx)
    (hmin : j ≠ c.minIdx) (havg : j ≠ c.avgIdx) : (sampleClass st c x)[j] = st[j] := by
  rw [getElem_sampleClass, if_neg havg.symm, if_neg hmin.symm, if_neg hmax.symm]

theorem statsUpdate_of_disabled (c : StatClass) (dur : Time) {s : State} (h : s.statsEn = false) :
    statsUpdate c dur s = s := by
  rw [statsUpdate, h, if_neg Bool.false_ne_true]

theorem statsUpdate_of_enabled (c : StatClass) (dur : Time) {s : State} (h : s.statsEn = true) :
    statsUpdate c dur s = { s with stat := sampleClass s.stat c (dur.setWidth 16) } := by
  rw [statsUpdate, if_pos h]

/-- Settles O45: an enabled update is `sampleClass`, read at the counters of its class and at the others. -/
theorem statisticsSample : Obligations.StatisticsSample := by
  unfold Obligations.StatisticsSample
  refine ⟨?_, ⟨rfl, rfl, rfl⟩, ⟨rfl, rfl, rfl⟩, ⟨rfl, rfl, rfl⟩⟩
  rintro c dur s _ rfl
  refine ⟨statsUpdate_of_disabled c dur, fun hen => ?_⟩
  rw [statsUpdate_of_enabled c dur hen, BitVec.ofNat_toNat, ← BitVec.toNat_setWidth]
  refine ⟨rfl, ?_, ?_, getElem_avgIdx_sampleClass .., fun j => getElem_sampleClass_of_ne _ c _⟩
  · rw [getElem_maxIdx_sampleClass, newMax_toNat]
  · rw [getElem_minIdx_sampleClass, newMin_toNat]

/-! ### The transitions of the FSM -/

theorem statsUpdate_stat (c : StatClass) (dur : Time) (s : State) :
    (statsUpdate c dur s).stat = if s.statsEn then sampleClass s.stat c (dur.setWidth 16) else s.stat := by
  rw [statsUpdate_eq]

/-- A sample reads STATS_EN and STAT alone. -/
theorem statsUpdate_stat_congr (c : StatClass) (dur : Time) {s t : State} (hen : s.statsEn = t.statsEn)
    (hstat : s.stat = t.stat) : (statsUpdate c dur s).stat = (statsUpdate c dur t).stat := by
  rw [statsUpdate_stat, statsUpdate_stat, hen, hstat]

theorem completionCheck_stat (ms : Time) (s : State) : (completionCheck ms s).stat = s.stat := by
  rcases completionCheck_cases ms s with ⟨-, h⟩ | ⟨-, -, h⟩ | ⟨-, -, h⟩ <;> rw [h]
  exact finalize_stat ms _

theorem idleStep_stat (ev : Event) (s : State) : (idleStep ev s).stat = s.stat := by
  cases ev <;> rfl

theorem msfStep_stat (ev : Event) (s : State) : (msfStep ev s).stat = s.stat := by
  cases ev <;> rfl

theorem bsfStep_stat (ev : Event) (s : State) : (bsfStep ev s).stat = s.stat := by
  cases ev <;> rfl

/-- The three calls of R190. -/
theorem gbStep_stat (ev : Event) (dur ms : Time) (s : State) :
    (gbStep ev dur ms s).stat =
      if ev = .s0 then (statsUpdate .high dur s).stat
      else if ev = .s1 then (statsUpdate .low1 dur s).stat
      else if ev = .l1 then (statsUpdate .low0 dur s).stat
      else s.stat := by
  cases ev with
  | s1 | l1 => exact (completionCheck_stat ms _).trans (statsUpdate_stat_congr _ dur rfl rfl)
  | _ => rfl

theorem fsmStep_of_gb {s : State} (ev : Event) (dur ms : Time) (hd : s.dstate = .gb) :
    fsmStep ev dur ms s = gbStep ev dur ms s := by
  rw [fsmStep, hd]

/-- R190: outside GB nothing samples, and in GB only events 2, 3 and 5 do. -/
theorem fsmStep_stat (ev : Event) (dur ms : Time) (s : State) :
    (fsmStep ev dur ms s).stat =
      if s.dstate = .gb ∧ ev = .s0 then (statsUpdate .high dur s).stat
      else if s.dstate = .gb ∧ ev = .s1 then (statsUpdate .low1 dur s).stat
      else if s.dstate = .gb ∧ ev = .l1 then (statsUpdate .low0 dur s).stat
      else s.stat := by
  cases hd : s.dstate with
  | idle => rw [fsmStep_of_idle ev dur ms hd, idleStep_stat]; rfl
  | msf => rw [fsmStep_of_msf ev dur ms hd, msfStep_stat]; rfl
  | bsf => rw [fsmStep_of_bsf ev dur ms hd, bsfStep_stat]; rfl
  | gb =>
    rw [fsmStep_of_gb ev dur ms hd, gbStep_stat]
    simp only [true_and]

/-! ### The commands -/

theorem restore_stat (s : State) : (restore s).stat = s.stat := by
  rcases restore_cases s with ⟨-, h⟩ | ⟨-, h⟩ <;> rw [h]

/-- R198: enabling leaves the counters, and the other value of the bit is SETSTAT 0. -/
theorem setStats_stat_of_ne_zero {enable : BitVec 1} (s : State) (h : enable ≠ 0) :
    (setStats enable s).stat = s.stat := by
  have hone : enable = 1 := (BitVec.eq_zero_or_eq_one enable).resolve_left h
  rw [setStats, if_pos hone]

theorem command_stat {i : Instr} {s t : State} (hedge : ¬ isEdge i) (hset : i ≠ .setstat 0) (h : exec i s = .next t) :
    t.stat = s.stat := by
  cases i with
  | edge level ts ms => exact absurd ⟨level, ts, ms, rfl⟩ hedge
  | setstat enable =>
    obtain rfl := Host.Outcome.next.inj h
    exact setStats_stat_of_ne_zero s fun h0 => hset (congrArg Instr.setstat h0)
  | addpair e =>
    obtain rfl := Host.Outcome.next.inj h
    exact addEntry_stat s e
  | init =>
    obtain rfl := Host.Outcome.next.inj h
    exact restore_stat s
  | getmsg | getstat =>
    obtain rfl := Host.Outcome.next.inj h
    split <;> rfl
  | _ =>
    obtain rfl := Host.Outcome.next.inj h
    rfl

/-- Settles O46: an enabled EDGE is one transition of the FSM, whose sample does not read PREV_TS; the other operations
by `command_stat`. -/
theorem onlyByteReceptionIsSampled : Obligations.OnlyByteReceptionIsSampled := by
  unfold Obligations.OnlyByteReceptionIsSampled
  refine ⟨fun s t level ts ms he h => ?_, fun _ _ _ => command_stat⟩
  have hprev (c : StatClass) (dur : Time) :
      (statsUpdate c dur { s with prevTs := ts }).stat = (statsUpdate c dur s).stat :=
    statsUpdate_stat_congr c dur rfl rfl
  rw [exec_edge_of_enabled level ts ms he] at h
  rw [← Host.Outcome.next.inj h, fsmStep_stat, hprev, hprev, hprev]

end Sys2Proof.Machine
end

section
/-! The host commands outside the pair store (R201 to R204, R206, R209, R210). One equation of `exec` says what each
does; what remains is the response data of R87, read field by field, and the session-active predicate. -/

namespace Sys2Proof.Machine

/-! ### Response data: bytes, counters, a time -/

/-- Above its lowest counter, a word is the word without that counter. -/
theorem extractLsb'_append_counter {n : Nat} (x : BitVec n) (c : BitVec 16) (k len : Nat) :
    (x ++ c).extractLsb' (16 * (k + 1)) len = x.extractLsb' (16 * k) len :=
  BitVec.extractLsb'_append_eq_of_le (Nat.le_add_left 16 (16 * k))

/-- R87: counter `j` of STAT is counter `j` of the data. The data has no bits above counter 8. -/
theorem extractLsb'_statData (st : StatBlock) (j : Fin 9) : (statData st).extractLsb' (16 * j.val) 16 = st[j] := by
  unfold statData
  match j with
  | ⟨0, _⟩ => exact BitVec.extractLsb'_append_eq_right
  | ⟨1, _⟩ | ⟨2, _⟩ | ⟨3, _⟩ | ⟨4, _⟩ | ⟨5, _⟩ | ⟨6, _⟩ | ⟨7, _⟩ =>
    repeat rw [extractLsb'_append_counter]
    exact BitVec.extractLsb'_append_eq_right
  | ⟨8, _⟩ =>
    repeat rw [extractLsb'_append_counter]
    exact BitVec.extractLsb'_eq_self

/-- R87: byte `i` of the message is byte `i` of the data, once the `i` bytes below it are dropped. -/
theorem extractLsb'_messageData (m : Message) (i : Fin 10) : (messageData m).extractLsb' (8 * i.val) 8 = m[i] := by
  unfold messageData
  match i with
  | ⟨0, _⟩ => exact BitVec.extractLsb'_append_eq_right
  | ⟨1, _⟩ | ⟨2, _⟩ | ⟨3, _⟩ | ⟨4, _⟩ | ⟨5, _⟩ | ⟨6, _⟩ | ⟨7, _⟩ | ⟨8, _⟩ | ⟨9, _⟩ =>
    repeat rw [extractLsb'_append_byte]
    exact BitVec.extractLsb'_append_eq_right

/-- A word whose bits from `start` up are zero is below `2 ^ start`. -/
theorem toNat_lt_of_extractLsb'_eq_zero {start len : Nat} {x : BitVec (start + len)}
    (h : x.extractLsb' start len = 0#len) : x.toNat < 2 ^ start := by
  have hquot : x.toNat / 2 ^ start < 2 ^ len := Nat.div_lt_of_lt_mul (Nat.pow_add 2 start len ▸ x.isLt)
  have hmod := toNat_extractLsb'_eq_div_mod start len x
  rw [h, BitVec.toNat_zero, Nat.mod_eq_of_lt hquot] at hmod
  exact (Nat.div_eq_zero_iff_lt (Nat.two_pow_pos start)).1 hmod.symm

/-- R87: above the ten bytes of the message the data is zero. -/
theorem messageData_toNat_lt (m : Message) : (messageData m).toNat < 2 ^ 80 := by
  refine toNat_lt_of_extractLsb'_eq_zero (start := 8 * 10) (len := 64) ?_
  unfold messageData
  repeat rw [extractLsb'_append_byte]
  exact BitVec.extractLsb'_eq_self

/-- R86: a time stands alone in the data. -/
theorem timeData_toNat (t : Time) : (timeData t).toNat = t.toNat := by
  rw [timeData, BitVec.toNat_append, BitVec.ofNat_eq_ofNat, BitVec.toNat_zero, Nat.zero_shiftLeft, Nat.zero_or]

/-- R13 on numbers. -/
theorem sub32_toNat (a b : Time) : (sub32 a b).toNat = (2 ^ 32 + a.toNat - b.toNat) % 2 ^ 32 := by
  have hb : b.toNat < 2 ^ 32 := b.isLt
  rw [sub32, BitVec.toNat_sub, ← Nat.sub_add_comm hb.le]

/-! ### The message: ISRDY, GETMSG, SINCE, SETREP -/

theorem exec_isrdy (s : State) : exec .isrdy s = .next (respond s s.msgReady 0 0) := rfl

/-- Settles O49: the response is all that ISRDY writes. -/
theorem isrdyReturnsTheFlag : Obligations.IsrdyReturnsTheFlag := by
  unfold Obligations.IsrdyReturnsTheFlag
  intro s
  rw [exec_isrdy, respond]

theorem exec_getmsg (s : State) : exec .getmsg s = .next
    (if s.msgReady then respond { s with msgReady := false } true 0 (messageData s.msg) else respond s false 0 0) := rfl

/-- Settles O50: by the flag; the data of a ready message is `messageData`. -/
theorem getmsgReturnsAndClears : Obligations.GetmsgReturnsAndClears := by
  unfold Obligations.GetmsgReturnsAndClears
  intro s
  refine ⟨fun hready => ⟨messageData s.msg, ?_, extractLsb'_messageData _, messageData_toNat_lt _⟩, fun hempty => ?_⟩
  · rw [exec_getmsg, if_pos hready, respond]
  · rw [exec_getmsg, if_neg (Bool.eq_false_iff.1 hempty), respond]

theorem exec_since (s : State) (ms : Time) :
    exec (.since ms) s = .next (respond s true 0 (timeData (sub32 ms s.lastPktTime))) := rfl

/-- Settles O51: the data is the 32-bit difference, and its value the difference modulo 2^32. -/
theorem sinceReturnsElapsedTime : Obligations.SinceReturnsElapsedTime := by
  unfold Obligations.SinceReturnsElapsedTime
  intro s ms
  refine ⟨timeData (sub32 ms s.lastPktTime), ?_, (timeData_toNat _).trans (sub32_toNat ..)⟩
  rw [exec_since, respond]

theorem exec_setrep (s : State) (threshold timeout : BitVec 8) : exec (.setrep threshold timeout) s =
    .next (respond { s with repeatThresh := threshold, repeatTimeout := timeout } true 0 0) := rfl

/-- Settles O52: two registers and the response are all that SETREP writes. -/
theorem setrepConfiguresTheFilter : Obligations.SetrepConfiguresTheFilter := by
  unfold Obligations.SetrepConfiguresTheFilter
  intro s threshold timeout
  rw [exec_setrep, respond]

/-! ### The pairing session: PAIRBEG -/

theorem exec_pairbeg (s : State) (timeout : BitVec 8) (ms : Time) : exec (.pairbeg timeout ms) s =
    .next (respond { s with pairTimeout := timeout, pairStart := ms } true 0 0) := rfl

/-- Settles O53: the session-active predicate reads the timeout just written. -/
theorem pairbegStartsASession : Obligations.PairbegStartsASession := by
  unfold Obligations.PairbegStartsASession
  intro s timeout ms
  exact ⟨_, exec_pairbeg s timeout ms, rfl, pairingActive_iff _⟩

/-! ### The statistics: GETSTAT, SETSTAT -/

theorem exec_getstat (s : State) : exec .getstat s =
    .next (if s.statsEn then respond s true 0 (statData s.stat) else respond s false 0 0) := rfl

/-- Settles O48: by the enable; the data while enabled is `statData`. -/
theorem getstatReadsTheCounters : Obligations.GetstatReadsTheCounters := by
  unfold Obligations.GetstatReadsTheCounters
  intro s
  refine ⟨fun hen => ⟨statData s.stat, ?_, extractLsb'_statData _⟩, fun hdis => ?_⟩
  · rw [exec_getstat, if_pos hen, respond]
  · rw [exec_getstat, if_neg (Bool.eq_false_iff.1 hdis), respond]

theorem exec_setstat (s : State) (enable : BitVec 1) :
    exec (.setstat enable) s = .next (respond (setStats enable s) true 0 0) := rfl

/-- R198: enabling leaves the counters. -/
theorem setStats_one (s : State) : setStats 1 s = { s with statsEn := true } := if_pos rfl

/-- R197: disabling loads the defaults. -/
theorem setStats_zero (s : State) : setStats 0 s = { s with statsEn := false, stat := s.cfg.statsDefault } :=
  if_neg (by decide)

/-- Settles O47: one equation of `setStats` for each value of the operand. -/
theorem setstatSwitchesCollection : Obligations.SetstatSwitchesCollection := by
  unfold Obligations.SetstatSwitchesCollection
  intro s
  refine ⟨?_, ?_⟩
  · rw [exec_setstat, setStats_one, respond]
  · rw [exec_setstat, setStats_zero, respond]

end Sys2Proof.Machine
end

section
/-! Decode after encode (R80 to R85, R95), and the canonical words as numbers: a word built from fields is read back
field by field, and its value is the sum of its fields at their places. -/

namespace Sys2Proof

open Sys2Proof.Machine

/-! ### The edge word -/

theorem decodeEdge_edgeWord (level : BitVec 1) (ts ms : Time) :
    decodeEdge (edgeWord level ts ms) = .edge level ts ms := by
  have hlevel : (edgeWord level ts ms).extractLsb' 64 1 = level :=
    (BitVec.extractLsb'_append_eq_of_le (by decide)).trans <|
      (BitVec.extractLsb'_append_eq_of_le (by decide)).trans BitVec.extractLsb'_eq_self
  have hts : (edgeWord level ts ms).extractLsb' 32 32 = ts :=
    (BitVec.extractLsb'_append_eq_of_le (by decide)).trans BitVec.extractLsb'_append_eq_right
  have hms : (edgeWord level ts ms).extractLsb' 0 32 = ms := BitVec.extractLsb'_append_eq_right
  rw [decodeEdge, hlevel, hts, hms]

/-! ### The command word and its argument -/

theorem decode_host_cmdWord (op : BitVec 4) (ms : Time) (arg : BitVec 64) :
    decode (.host (cmdWord op ms arg)) = decodeOp op.toNat ms arg := by
  rw [decode, decodeCmd, cmdOp_cmdWord, cmdMs_cmdWord, cmdArg_cmdWord]

/-- The lowest byte of an argument. -/
theorem argByte_zero_append (x : BitVec 56) (b : Byte) : argByte (x ++ b) 0 = b :=
  BitVec.extractLsb'_append_eq_right

/-- The byte above it. -/
theorem argByte_one_append (x : BitVec 48) (b c : Byte) : argByte (x ++ b ++ c) 1 = b :=
  (extractLsb'_append_byte (x ++ b) c 0 8).trans BitVec.extractLsb'_append_eq_right

theorem argByte_entryArg (e : Entry) (i : Fin 8) : argByte (entryArg e) i.val = e[i] := by
  unfold argByte entryArg
  match i with
  | ⟨0, _⟩ => exact BitVec.extractLsb'_append_eq_right
  | ⟨1, _⟩ | ⟨2, _⟩ | ⟨3, _⟩ | ⟨4, _⟩ | ⟨5, _⟩ | ⟨6, _⟩ =>
    repeat rw [extractLsb'_append_byte]
    exact BitVec.extractLsb'_append_eq_right
  | ⟨7, _⟩ =>
    repeat rw [extractLsb'_append_byte]
    exact BitVec.extractLsb'_eq_self

theorem getElem_argEntry (arg : BitVec 64) (i : Fin 8) : (argEntry arg)[i] = argByte arg i.val := by
  fin_cases i <;> rfl

/-- R84, R95: packing an entry and taking it apart again. -/
theorem argEntry_entryArg (e : Entry) : argEntry (entryArg e) = e :=
  Vector.ext fun i hi => (getElem_argEntry _ ⟨i, hi⟩).trans (argByte_entryArg e ⟨i, hi⟩)

/-- The canonical word of each operation, read back through the opcode map. -/
theorem decode_encode (i : Instr) : decode (encode i) = i := by
  cases i with
  | edge level ts ms => exact decodeEdge_edgeWord level ts ms
  | since ms => exact decode_host_cmdWord 0x4 ms 0
  | setrep threshold timeout =>
    exact (decode_host_cmdWord 0x5 0 _).trans
      (congrArg₂ Instr.setrep (argByte_zero_append _ threshold) (argByte_one_append _ timeout threshold))
  | addpair e => exact (decode_host_cmdWord 0x6 0 _).trans (congrArg Instr.addpair (argEntry_entryArg e))
  | pairbeg timeout ms =>
    exact (decode_host_cmdWord 0x7 ms _).trans (congrArg (Instr.pairbeg · ms) (argByte_zero_append 0 timeout))
  | getpair index => exact (decode_host_cmdWord 0x8 0 _).trans (congrArg Instr.getpair (argByte_zero_append 0 index))
  | setstat enable =>
    exact (decode_host_cmdWord 0xB 0 _).trans (congrArg Instr.setstat BitVec.extractLsb'_append_eq_right)
  | _ => rfl

/-- Settles O1: no operand is refused, so the round trip holds of every operation. -/
theorem decodeOfEncodeIsTheOperation : Obligations.DecodeOfEncodeIsTheOperation := fun i _ => decode_encode i

/-! ### Words as numbers -/

/-- Fields side by side weigh as digits. -/
theorem toNat_append_eq_add {n m : Nat} (x : BitVec n) (y : BitVec m) :
    (x ++ y).toNat = x.toNat * 2 ^ m + y.toNat := by
  rw [BitVec.toNat_append, ← Nat.shiftLeft_add_eq_or_of_lt y.isLt, Nat.shiftLeft_eq]

theorem edgeWord_toNat (level : BitVec 1) (ts ms : Time) :
    (edgeWord level ts ms).toNat = level.toNat * 2 ^ 64 + ts.toNat * 2 ^ 32 + ms.toNat := by
  rw [edgeWord, toNat_append_eq_add, toNat_append_eq_add]
  omega

theorem cmdWord_toNat {op : BitVec 4} {n : Nat} (hop : op.toNat = n) (ms : Time) {arg : BitVec 64} {m : Nat}
    (harg : arg.toNat = m) : (cmdWord op ms arg).toNat = n * 2 ^ 96 + ms.toNat * 2 ^ 64 + m := by
  rw [cmdWord, toNat_append_eq_add, toNat_append_eq_add, hop, harg]
  omega

/-- The commands that leave `ms` 0. -/
theorem cmdWord_zero_toNat {op : BitVec 4} {n : Nat} (hop : op.toNat = n) {arg : BitVec 64} {m : Nat}
    (harg : arg.toNat = m) : (cmdWord op 0 arg).toNat = n * 2 ^ 96 + m := by
  rw [cmdWord_toNat hop 0 harg, BitVec.ofNat_eq_ofNat, BitVec.toNat_zero, Nat.zero_mul, Nat.add_zero]

theorem zero_append_toNat {n m : Nat} (x : BitVec m) : ((0 : BitVec n) ++ x).toNat = x.toNat := by
  rw [toNat_append_eq_add, BitVec.ofNat_eq_ofNat, BitVec.toNat_zero, Nat.zero_mul, Nat.zero_add]

theorem setrep_arg_toNat (threshold timeout : BitVec 8) :
    ((0 : BitVec 48) ++ timeout ++ threshold).toNat = timeout.toNat * 2 ^ 8 + threshold.toNat := by
  rw [toNat_append_eq_add, zero_append_toNat]

theorem entryArg_toNat (e : Entry) : (entryArg e).toNat =
    e[7].toNat * 2 ^ 56 + e[6].toNat * 2 ^ 48 + e[5].toNat * 2 ^ 40 + e[4].toNat * 2 ^ 32 +
      e[3].toNat * 2 ^ 24 + e[2].toNat * 2 ^ 16 + e[1].toNat * 2 ^ 8 + e[0].toNat := by
  unfold entryArg
  simp only [toNat_append_eq_add]
  omega

theorem respWord_toNat (ok : Bool) (count : BitVec 8) (data : BitVec 144) :
    (respWord ok count data).toNat = ok.toNat * 2 ^ 152 + count.toNat * 2 ^ 144 + data.toNat := by
  rw [respWord, toNat_append_eq_add, toNat_append_eq_add, BitVec.toNat_ofBool]
  omega

/-- Settles O4: each canonical word by the value of `edgeWord` or `cmdWord` and of its argument. -/
theorem encodedWordValues : Obligations.EncodedWordValues := by
  unfold Obligations.EncodedWordValues
  refine ⟨fun level ts ms => ⟨_, rfl, edgeWord_toNat level ts ms⟩,
    fun ms => ⟨_, rfl, (cmdWord_toNat (n := 4) rfl ms BitVec.toNat_zero).trans (Nat.add_zero _)⟩,
    fun threshold timeout => ⟨_, rfl, ?_⟩, fun e => ⟨_, rfl, ?_⟩,
    fun timeout ms => ⟨_, rfl, cmdWord_toNat (n := 7) rfl ms (zero_append_toNat timeout)⟩,
    fun index => ⟨_, rfl, cmdWord_zero_toNat (n := 8) rfl (zero_append_toNat index)⟩,
    fun enable => ⟨_, rfl, cmdWord_zero_toNat (n := 11) rfl (zero_append_toNat enable)⟩, ⟨rfl, rfl, rfl, rfl, rfl⟩,
    respWord_toNat⟩
  · rw [cmdWord_zero_toNat (n := 5) rfl (setrep_arg_toNat threshold timeout), Nat.add_assoc]
  · rw [cmdWord_zero_toNat (n := 6) rfl (entryArg_toNat e)]
    simp only [Nat.add_assoc]

/-- Settles O5: the decoder run on each word. -/
theorem specWordsDecode : Obligations.SpecWordsDecode := by
  unfold Obligations.SpecWordsDecode
  decide

end Sys2Proof
end

section
/-! The step and its arrivals (R5 to R7, R222, R240): a step hands the operation of the arrival presented next to
`exec`, which always answers a next state. -/

namespace Sys2Proof.Machine

open Sys2Proof.Safety

/-! ### Serving an arrival -/

theorem step_of_inbox_cons {s : State} {a : Arrival} {rest : List Arrival} (h : s.inbox = a :: rest) :
    step s = serve a { s with inbox := rest, resp := none, nvPort := [] } := by
  rw [step, serveNext, h]; rfl

theorem step_of_inbox_nil {s : State} (h : s.inbox = []) : step s = .next s := by
  rw [step, serveNext, h]

/-- One word alone leaves nothing of its arrival behind, whatever the reset line does. -/
theorem perform_arrivalOf (r : Request) (line : ResetLine) (s : State) :
    perform { arrivalOf r with reset := line } s = exec (decode r) s := by
  cases r <;> rfl

theorem instr_wf (i : Instr) : i.wf = true := by
  cases i <;> rfl

theorem step_of_presented {s : State} {r : Request} {rest : List Arrival} (h : s.inbox = arrivalOf r :: rest) :
    step s = exec (decode r) { s with inbox := rest, resp := none, nvPort := [] } := by
  have hreleased : arrivalOf r = { arrivalOf r with reset := .released } := by cases r <;> rfl
  rw [step_of_inbox_cons h, hreleased, serve, perform_arrivalOf]

/-- Settles O6: one word alone on its port is performed as it is. -/
theorem stepRunsThePresentedOperation : Obligations.StepRunsThePresentedOperation :=
  fun _ r _ h => ⟨instr_wf (decode r), step_of_presented h⟩

/-- Settles O8: an empty inbox, an arrival without a word, and an arrival under reset, each a branch of `serve`. -/
theorem arrivalsThatPerformNothing : Obligations.ArrivalsThatPerformNothing := by
  unfold Obligations.ArrivalsThatPerformNothing
  refine ⟨fun s h => step_of_inbox_nil h, fun s rest h => ?_, fun s a rest h hreset => ?_⟩
  · rw [step_of_inbox_cons h, serve, perform]; rfl
  · rw [step_of_inbox_cons h, serve, hreset]; rfl

/-! ### Every operation completes -/

theorem exec_total (i : Instr) (s : State) : ∃ t, exec i s = .next t := by
  cases i <;> exact ⟨_, rfl⟩

theorem perform_total (a : Arrival) (s : State) : ∃ t, perform a s = .next t := by
  unfold perform
  split
  · exact exec_total _ _
  · exact ⟨s, rfl⟩

theorem performCut_eq {n : Nat} {a : Arrival} {s t : State} (h : perform a s = .next t) :
    performCut n a s = .next (cutShort n s t) := by
  rw [performCut, h]

theorem safe (s : State) : Safe s := by
  rcases serveNext_cases s with ⟨-, h⟩ | ⟨a, rest, -, ⟨-, h⟩ | ⟨-, h⟩ | ⟨n, -, h⟩⟩
  · exact ⟨s, h⟩
  · obtain ⟨t, ht⟩ := perform_total a (clearOutputs { s with inbox := rest })
    exact ⟨t, h.trans ht⟩
  · exact ⟨_, h⟩
  · obtain ⟨t, ht⟩ := perform_total a (clearOutputs { s with inbox := rest })
    exact ⟨_, h.trans (performCut_eq ht)⟩

/-- Settles O9: every arm of `exec` answers a next state, and a step runs at most one of them. -/
theorem everyOperationIsTotal : Obligations.EveryOperationIsTotal := ⟨exec_total, safe⟩

/-! ### A word of the opcode table -/

/-- A table word that decodes does so as the word of its port with the same value (log entry 7). -/
theorem decode_of_decodeTableWord {nbits w : Nat} {i : Instr} (h : decodeTableWord nbits w = some i) :
    decode (requestOfNat (tablePort nbits) w) = i := by
  simp only [decodeTableWord] at h
  split at h
  · cases h
  · next hfits =>
    have hlt : w < 256 ^ portBytes (tablePort nbits) := by
      rw [show 256 = 2 ^ 8 from rfl, ← Nat.pow_mul]
      exact Nat.lt_of_not_le hfits
    rw [decodeBytes, bytesOfNat_length, natOfBytes_bytesOfNat _ _ hlt, if_neg (not_not.2 rfl)] at h
    by_cases hpad : w ≥ 2 ^ portBits (tablePort nbits)
    · rw [if_pos hpad] at h
      cases h
    · rw [if_neg hpad] at h
      exact Option.some.inj h

/-- Settles O10: the placed word is the arrival presented next, and what was due stays due. -/
theorem placedWordRunsNext : Obligations.PlacedWordRunsNext := by
  unfold Obligations.PlacedWordRunsNext
  intro s nbits w i h
  have hstep : step (s.withFetchWord nbits w) = _ := step_of_presented rfl
  rw [hstep, decode_of_decodeTableWord h]
  rfl

end Sys2Proof.Machine
end

section
/-! The arithmetic of the core on numbers (R13 to R17, R196), and the comparator tree of R102. -/

namespace Sys2Proof.Machine

theorem satinc_toNat (c : BitVec 9) : (satinc c).toNat = min (c.toNat + 1) 256 := by
  rw [satinc, BitVec.toNat_ofNat]
  omega

/-- R16: the byte with its appended bits, cut to eight bits. -/
theorem shl1_eq_setWidth (a : Byte) : shl1 a = (a ++ 1#1).setWidth 8 := by
  refine BitVec.eq_of_getLsbD_eq fun i hi => ?_
  simp only [shl1, BitVec.getLsbD_or, BitVec.getLsbD_shiftLeft, BitVec.getLsbD_setWidth, BitVec.getLsbD_append]
  match i with
  | 0 => simp
  | i + 1 => simp [BitVec.getLsbD_one]

theorem shl2_eq_setWidth (a : Byte) : shl2 a = (a ++ 2#2).setWidth 8 := by
  refine BitVec.eq_of_getLsbD_eq fun i hi => ?_
  simp only [shl2, BitVec.getLsbD_or, BitVec.getLsbD_shiftLeft, BitVec.getLsbD_setWidth, BitVec.getLsbD_append]
  match i with
  | 0 | 1 => simp
  | i + 2 => simp [BitVec.getLsbD_ofNat, Nat.testBit_succ]

theorem shl1_toNat (a : Byte) : (shl1 a).toNat = (2 * a.toNat + 1) % 256 := by
  rw [shl1_eq_setWidth, BitVec.toNat_setWidth, toNat_append_eq_add, Nat.mul_comm]
  rfl

theorem shl2_toNat (a : Byte) : (shl2 a).toNat = (4 * a.toNat + 2) % 256 := by
  rw [shl2_eq_setWidth, BitVec.toNat_setWidth, toNat_append_eq_add, Nat.mul_comm]
  rfl

theorem ema_toNat (a x : BitVec 16) :
    (ema a x).toNat = (a.toNat - a.toNat / 16 + x.toNat) % 2 ^ 16 := by
  have hshift : (a >>> 4).toNat = a.toNat / 16 := by rw [BitVec.toNat_ushiftRight, Nat.shiftRight_eq_div_pow]
  rw [ema, BitVec.toNat_add, BitVec.toNat_sub, hshift]
  omega

/-- Settles O13: primitive by primitive; both bounds of the average are linear arithmetic on its value. -/
theorem primitivesAsNumbers : Obligations.PrimitivesAsNumbers := by
  unfold Obligations.PrimitivesAsNumbers
  refine ⟨sub32_toNat, satinc_toNat, shl1_toNat, shl2_toNat, ema_toNat, fun a x ha hx => by omega,
    fun a x hx ha => ?_⟩
  rw [ema_toNat]
  refine (Nat.mod_le _ _).trans ?_
  omega

/-- The code of a bucket's event is the bucket beside the level (R102). -/
theorem byLevel_code_eq_append (level : BitVec 1) {low high : Event} {bucket : BitVec 2}
    (hlow : low.code = (0 : BitVec 1) ++ bucket ++ 0#1) (hhigh : high.code = (0 : BitVec 1) ++ bucket ++ 1#1) :
    (byLevel level low high).code = (0 : BitVec 1) ++ bucket ++ level := by
  rcases BitVec.eq_zero_or_eq_one level with rfl | rfl
  · exact hlow
  · exact hhigh

/-- Settles O16: the priority encoder picks the bucket that the chain of comparisons of `classify` picks, and the fourth
comparison tells the gap from the illegal event. -/
theorem comparatorTreeGivesTheCode : Obligations.ComparatorTreeGivesTheCode := by
  unfold Obligations.ComparatorTreeGivesTheCode
  rintro level dur _ rfl
  rw [classify_eq]
  by_cases hlegal : dur.toNat < 2000 ∨ dur.toNat > 5000
  · rw [if_pos hlegal]
    split_ifs with noise short long gap
    · exact byLevel_code_eq_append level rfl rfl
    · exact byLevel_code_eq_append level rfl rfl
    · exact byLevel_code_eq_append level rfl rfl
    · exact byLevel_code_eq_append level rfl rfl
    · omega
  · rw [if_neg hlegal, if_neg (by omega), if_neg (by omega), if_neg (by omega), if_neg (by omega)]
    rfl

end Sys2Proof.Machine
end

section
/-! What EDGE and the commands may write (R227). One transition of the FSM is described once, by `FsmEffect`: either it
writes reception registers alone, or it completes a message in GB and finalizes what it received. Every command is
described by `HostWrites`. -/

namespace Sys2Proof.Machine

open Sys2Proof.Safety

/-! ### A transition outside finalization -/

/-- `t` is `s` with other values in DSTATE, ACC, BIT_CNT, BYTE_CNT, BUF and STAT at most. -/
def ReceivesOnly (s t : State) : Prop :=
  t = { s with
    dstate := t.dstate, acc := t.acc, bitCnt := t.bitCnt, byteCnt := t.byteCnt, buf := t.buf, stat := t.stat }

theorem ReceivesOnly.of_eq {s t : State} {d : DState} {a : Byte} {n k : BitVec 4} {b : Message} {st : StatBlock}
    (h : t = { s with dstate := d, acc := a, bitCnt := n, byteCnt := k, buf := b, stat := st }) : ReceivesOnly s t := by
  subst h; rfl

theorem receivesOnly_statsUpdate (c : StatClass) (dur : Time) (s : State) : ReceivesOnly s (statsUpdate c dur s) :=
  .of_eq (statsUpdate_eq c dur s)

theorem receivesOnly_idleStep (ev : Event) (s : State) : ReceivesOnly s (idleStep ev s) := by
  cases ev <;> rfl

theorem receivesOnly_msfStep (ev : Event) (s : State) : ReceivesOnly s (msfStep ev s) := by
  cases ev <;> rfl

theorem receivesOnly_bsfStep (ev : Event) (s : State) : ReceivesOnly s (bsfStep ev s) := by
  cases ev <;> rfl

/-! ### One transition -/

/-- What one transition with the time `ms` does: it finalizes at the tenth byte of a message, and otherwise only
receives (R134, R135). -/
inductive FsmEffect (ms : Time) (s t : State) : Prop
  | receives (h : ReceivesOnly s t)
  | finalizes (u : State) (hd : s.dstate = .gb) (hu : ReceivesOnly s u) (hbytes : u.byteCnt = 10)
      (h : t = { finalize ms u with dstate := .idle })

/-- A sampled pulse in GB and the check after it, for any new ACC and BIT_CNT (R131, R132, R134). -/
theorem fsmEffect_append (c : StatClass) (dur ms : Time) {s : State} (hd : s.dstate = .gb) (a : Byte) (n : BitVec 4) :
    FsmEffect ms s (completionCheck ms (statsUpdate c dur { s with acc := a, bitCnt := n })) := by
  have hsample := statsUpdate_eq c dur { s with acc := a, bitCnt := n }
  rcases completionCheck_cases ms (statsUpdate c dur { s with acc := a, bitCnt := n }) with
    ⟨-, h⟩ | ⟨-, -, h⟩ | ⟨-, hten, h⟩ <;> rw [h]
  · exact .receives (.of_eq hsample)
  · exact .receives (.of_eq (by rw [hsample]))
  · exact .finalizes _ hd (.of_eq (by rw [hsample])) hten rfl

theorem fsmStep_effect (ev : Event) (dur ms : Time) (s : State) : FsmEffect ms s (fsmStep ev dur ms s) := by
  cases hd : s.dstate with
  | idle => exact fsmStep_of_idle ev dur ms hd ▸ .receives (receivesOnly_idleStep ev s)
  | msf => exact fsmStep_of_msf ev dur ms hd ▸ .receives (receivesOnly_msfStep ev s)
  | bsf => exact fsmStep_of_bsf ev dur ms hd ▸ .receives (receivesOnly_bsfStep ev s)
  | gb =>
    rw [fsmStep_of_gb ev dur ms hd]
    cases ev with
    | s0 => exact .receives (receivesOnly_statsUpdate .high dur s)
    | s1 => exact fsmEffect_append .low1 dur ms hd _ _
    | l1 => exact fsmEffect_append .low0 dur ms hd _ _
    | _ => exact .receives rfl

/-- EDGE is one transition after PREV_TS is set, or nothing at all while disabled (R100, R107). -/
theorem exec_edge_effect {level : BitVec 1} {ts ms : Time} {s t : State} (h : exec (.edge level ts ms) s = .next t) :
    ∃ prev, FsmEffect ms { s with prevTs := prev } t := by
  obtain rfl := Host.Outcome.next.inj ((exec_edge level ts ms s).symm.trans h)
  split
  · exact ⟨ts, fsmStep_effect _ _ ms _⟩
  · exact ⟨s.prevTs, .receives rfl⟩

/-- The registers that no transition writes (R227). -/
theorem FsmEffect.frame {ms : Time} {s t : State} (h : FsmEffect ms s t) :
    t = { s with
      dstate := t.dstate, acc := t.acc, bitCnt := t.bitCnt, byteCnt := t.byteCnt, buf := t.buf, msg := t.msg,
      msgReady := t.msgReady, repeatCnt := t.repeatCnt, lastPktTime := t.lastPktTime, pairTimeout := t.pairTimeout,
      pair := t.pair, pairCount := t.pairCount, stat := t.stat, nv := t.nv, nvPort := t.nvPort } := by
  cases h with
  | receives h => rw [h]
  | finalizes u hd hu hbytes h =>
    rw [ReceivesOnly] at hu
    rw [h, finalize_frame, hu]

/-- Settles O18: the transition of the classified event, whose frame holds PREV_TS, ENABLED and the response. -/
theorem enabledEdgeUpdatesPrevTs : Obligations.EnabledEdgeUpdatesPrevTs := by
  unfold Obligations.EnabledEdgeUpdatesPrevTs
  intro s level ts ms he
  have hframe := (fsmStep_effect (classify level (sub32 ts s.prevTs)) (sub32 ts s.prevTs) ms
    { s with prevTs := ts }).frame
  exact ⟨_, exec_edge_of_enabled level ts ms he, (congrArg State.prevTs hframe :),
    (congrArg State.enabled hframe :).trans he, (congrArg State.resp hframe :), rfl⟩

theorem exec_edge_inbox {level : BitVec 1} {ts ms : Time} {s t : State} (h : exec (.edge level ts ms) s = .next t) :
    t.inbox = s.inbox := by
  obtain ⟨prev, heffect⟩ := exec_edge_effect h
  exact (congrArg State.inbox heffect.frame :)

/-- Settles O7: the edge leaves the command in the inbox, alone on its port and before what was due. -/
theorem edgeIsPerformedBeforeCommand : Obligations.EdgeIsPerformedBeforeCommand := by
  unfold Obligations.EdgeIsPerformedBeforeCommand
  intro s w v rest h
  obtain ⟨t, ht⟩ := exec_total (decodeEdge w)
    { s with inbox := arrivalOf (.host v) :: rest, resp := none, nvPort := [] }
  refine ⟨t, (step_of_inbox_cons h).trans ht, ht, ?_⟩
  exact step_of_presented (r := .host v) (exec_edge_inbox ht)

/-! ### The commands -/

/-- `t` is `s` with other values, at most, where R227 lets a host command write. -/
def HostWrites (s t : State) : Prop :=
  t = { s with
    enabled := t.enabled, msgReady := t.msgReady, repeatThresh := t.repeatThresh, repeatTimeout := t.repeatTimeout,
    pairTimeout := t.pairTimeout, pairStart := t.pairStart, pair := t.pair, pairCount := t.pairCount,
    statsEn := t.statsEn, stat := t.stat, nv := t.nv, nvPort := t.nvPort, resp := t.resp }

theorem HostWrites.of_eq {s t : State} {en ready sen : Bool} {th rto pto count : BitVec 8} {start : Time}
    {pair : List Entry} {st : StatBlock} {nv : Memory} {port : List NvAccess} {resp : Option RespWord}
    (h : t = { s with
      enabled := en, msgReady := ready, repeatThresh := th, repeatTimeout := rto, pairTimeout := pto,
      pairStart := start, pair := pair, pairCount := count, statsEn := sen, stat := st, nv := nv, nvPort := port,
      resp := resp }) : HostWrites s t := by
  subst h; rfl

theorem HostWrites.respond {s t : State} (h : HostWrites s t) (ok : Bool) (count : BitVec 8) (data : BitVec 144) :
    HostWrites s (respond t ok count data) := by
  rw [HostWrites] at h
  exact .of_eq (congrArg (Machine.respond · ok count data) h :)

/-- What INIT may write of the registers and NV, beside ENABLED (R175). -/
theorem restore_frame (s : State) :
    restore s = { s with
      pair := (restore s).pair, pairCount := (restore s).pairCount, nv := (restore s).nv,
      nvPort := (restore s).nvPort } := by
  rcases restore_cases s with ⟨-, h⟩ | ⟨-, h⟩ <;> rw [h]

/-- What SETSTAT may write (R197, R198). -/
theorem setStats_frame (enable : BitVec 1) (s : State) :
    setStats enable s = { s with statsEn := (setStats enable s).statsEn, stat := (setStats enable s).stat } := by
  unfold setStats
  split <;> rfl

theorem command_hostWrites {i : Instr} {s t : State} (hedge : ¬ isEdge i) (h : exec i s = .next t) :
    HostWrites s t := by
  cases i with
  | edge level ts ms => exact absurd ⟨level, ts, ms, rfl⟩ hedge
  | addpair e =>
    obtain rfl := Host.Outcome.next.inj h
    exact (HostWrites.of_eq (addEntry_frame s e)).respond ..
  | init =>
    obtain rfl := Host.Outcome.next.inj h
    have hinit := (congrArg (fun u : State => { u with enabled := true }) (restore_frame s) :)
    exact (HostWrites.of_eq hinit).respond ..
  | setstat enable =>
    obtain rfl := Host.Outcome.next.inj h
    exact (HostWrites.of_eq (setStats_frame enable s)).respond ..
  | getmsg | getstat =>
    obtain rfl := Host.Outcome.next.inj h
    split <;> rfl
  | _ =>
    obtain rfl := Host.Outcome.next.inj h
    rfl

/-! ### MSG_READY and the session timeout -/

theorem finalize_keeps_msgReady (ms : Time) {s : State} (h : s.msgReady = true) : (finalize ms s).msgReady = true := by
  rcases finalize_cases ms s with ⟨-, hf⟩ | ⟨-, -, -, hf⟩ | ⟨-, -, hf⟩ <;> rw [hf]
  · exact h
  · exact (addEntry_msgReady ..).trans h
  · exact Bool.or_eq_true_iff.2 (.inl h)

/-- Only the membership test sets the flag, and it writes no byte of NV (R159). -/
theorem finalize_nv_of_sets_msgReady {ms : Time} {s : State} (hclear : s.msgReady = false)
    (hset : (finalize ms s).msgReady = true) : (finalize ms s).nv = s.nv := by
  rcases finalize_cases ms s with ⟨-, hf⟩ | ⟨-, -, -, hf⟩ | ⟨-, -, hf⟩ <;> rw [hf] at hset ⊢
  · rfl
  · rw [addEntry_msgReady] at hset
    exact absurd (hclear.symm.trans hset) Bool.false_ne_true
  · rfl

theorem finalize_pairTimeout_cases (ms : Time) (s : State) :
    (finalize ms s).pairTimeout = s.pairTimeout ∨ (finalize ms s).pairTimeout = 0 := by
  rcases finalize_cases ms s with ⟨-, hf⟩ | ⟨-, -, -, hf⟩ | ⟨-, -, hf⟩ <;> rw [hf]
  · exact .inl rfl
  · exact .inr (addEntry_pairTimeout ..)
  · exact .inr rfl

theorem FsmEffect.keeps_msgReady {ms : Time} {s t : State} (h : FsmEffect ms s t) (hs : s.msgReady = true) :
    t.msgReady = true := by
  cases h with
  | receives h => exact (congrArg State.msgReady h :).trans hs
  | finalizes u hd hu hbytes h =>
    rw [h]
    exact finalize_keeps_msgReady ms ((congrArg State.msgReady hu :).trans hs)

theorem FsmEffect.pairTimeout_cases {ms : Time} {s t : State} (h : FsmEffect ms s t) :
    t.pairTimeout = s.pairTimeout ∨ t.pairTimeout = 0 := by
  cases h with
  | receives h => exact .inl (congrArg State.pairTimeout h :)
  | finalizes u hd hu hbytes h =>
    rw [h, ← (congrArg State.pairTimeout hu :)]
    exact finalize_pairTimeout_cases ms u

/-- R72: no command sets MSG_READY; GETMSG clears it. -/
theorem command_msgReady {i : Instr} {s t : State} (hedge : ¬ isEdge i) (h : exec i s = .next t)
    (ht : t.msgReady = true) : s.msgReady = true := by
  cases i with
  | edge level ts ms => exact absurd ⟨level, ts, ms, rfl⟩ hedge
  | getmsg =>
    by_cases hready : s.msgReady = true
    · exact hready
    · rw [exec_getmsg, if_neg hready] at h
      obtain rfl := Host.Outcome.next.inj h
      exact ht
  | addpair e =>
    obtain rfl := Host.Outcome.next.inj h
    exact (addEntry_msgReady s e).symm.trans ht
  | init =>
    obtain rfl := Host.Outcome.next.inj h
    have hrestore : (restore s).msgReady = s.msgReady := (congrArg State.msgReady (restore_frame s) :)
    exact hrestore.symm.trans ht
  | setstat enable =>
    obtain rfl := Host.Outcome.next.inj h
    have hstats : (setStats enable s).msgReady = s.msgReady := (congrArg State.msgReady (setStats_frame enable s) :)
    exact hstats.symm.trans ht
  | getstat =>
    obtain rfl := Host.Outcome.next.inj h
    split at ht <;> exact ht
  | _ =>
    obtain rfl := Host.Outcome.next.inj h
    exact ht

/-- Settles O33: no command sets the flag; of an EDGE only a finalization does, in the case that publishes. -/
theorem readyFlagMeansWholeMessage : Obligations.ReadyFlagMeansWholeMessage := by
  unfold Obligations.ReadyFlagMeansWholeMessage
  intro i s t h hclear hset
  by_cases hedge : isEdge i
  · obtain ⟨level, ts, ms, rfl⟩ := hedge
    obtain ⟨prev, heffect⟩ := exec_edge_effect h
    cases heffect with
    | receives hr =>
      have hkept : t.msgReady = s.msgReady := (congrArg State.msgReady hr :)
      exact absurd (hclear.symm.trans (hkept.symm.trans hset)) Bool.false_ne_true
    | finalizes u hd hu hbytes ht =>
      have hready : u.msgReady = s.msgReady := (congrArg State.msgReady hu :)
      have hnv : u.nv = s.nv := (congrArg State.nv hu :)
      subst ht
      exact ⟨⟨level, ts, ms, rfl⟩, hd, rfl, (finalize_byteCnt ms u).trans hbytes,
        (finalize_msg ms u).trans (finalize_buf ms u).symm,
        (finalize_nv_of_sets_msgReady (hready.trans hclear) hset).trans hnv⟩
  · exact absurd (hclear.symm.trans (command_msgReady hedge h hset)) Bool.false_ne_true

/-! ### What is written in NV -/

/-- An append leaves every byte outside its entry and the count (R61, R173). -/
theorem read_appendAccesses_other (p : Config.Params) (k : Nat) (e : Entry) (n : Byte) (m : Memory) {a : NvAddr}
    (h0 : a ≠ nvAddr p 0) (hi : ∀ i : Fin 8, a ≠ nvAddr p (entryOffset k i)) :
    ((appendAccesses p k e n).foldl applyAccess m).read a.toNat = m.read a.toNat := by
  refine read_foldl_applyAccess_other _ m _ fun x hx addr haddr => BitVec.toNat_ne_iff_ne.2 ?_
  rcases List.mem_append.1 hx with hentry | hcount
  · obtain ⟨i, rfl⟩ := entryWrites_writtenTo p k e x hentry addr haddr
    exact hi i
  · obtain rfl := List.mem_singleton.1 hcount
    obtain rfl := Option.some.inj haddr
    exact h0

theorem read_other_of_kept_or_appended {s t : State} (h : PairStoreKept s t ∨ ∃ e, Appended s t e) {a : NvAddr}
    (h0 : a ≠ nvAddr s.cfg 0) (hi : ∀ i : Fin 8, a ≠ nvAddr s.cfg (entryOffset s.pairCount.toNat i)) :
    t.nv.read a.toNat = s.nv.read a.toNat := by
  rcases h with hk | ⟨e, ha⟩
  · rw [hk.nv]
  · rw [ha.nv, read_appendAccesses_other _ _ _ _ _ h0 hi]

/-- INIT and CLRPAIR write at most the count. -/
theorem read_other_of_init_or_clrpair {i : Instr} {s t : State} (hi : i = .init ∨ i = .clrpair)
    (h : exec i s = .next t) {a : NvAddr} (h0 : a ≠ nvAddr s.cfg 0) : t.nv.read a.toNat = s.nv.read a.toNat := by
  rcases hi with rfl | rfl
  · rcases execInit_accesses s t h with ⟨-, -, hnv⟩ | ⟨-, -, hnv⟩
    · rw [hnv, read_write_ne s.nv 0 h0]
    · rw [hnv]
  · obtain rfl := Host.Outcome.next.inj h
    exact read_write_ne s.nv 0 h0

theorem execEdge_kept_or_appended {level : BitVec 1} {ts ms : Time} {s t : State}
    (h : exec (.edge level ts ms) s = .next t) : PairStoreKept s t ∨ ∃ e, Appended s t e :=
  (execEdge_kept_or_captured level ts ms s t h).imp_right fun ⟨_, hc⟩ => ⟨_, hc.appended⟩

theorem accessesNv_eq_false {i : Instr} (hedge : ¬ isEdge i) (hinit : i ≠ .init) (hclr : i ≠ .clrpair)
    (hadd : ¬ isAddpair i) : accessesNv i = false := by
  cases i with
  | edge level ts ms => exact absurd ⟨level, ts, ms, rfl⟩ hedge
  | init => exact absurd rfl hinit
  | clrpair => exact absurd rfl hclr
  | addpair e => exact absurd ⟨e, rfl⟩ hadd
  | _ => rfl

/-- A command other than INIT and CLRPAIR appends an entry to the store or leaves it. -/
theorem command_kept_or_appended {i : Instr} {s t : State} (hedge : ¬ isEdge i) (hinit : i ≠ .init)
    (hclr : i ≠ .clrpair) (h : exec i s = .next t) : PairStoreKept s t ∨ ∃ e, Appended s t e := by
  by_cases hadd : isAddpair i
  · obtain ⟨e, rfl⟩ := hadd
    exact (execAddpair_kept_or_appended s t e h).imp_right fun ha => ⟨e, ha⟩
  · exact .inl (exec_kept_of_not_accessesNv i s t (accessesNv_eq_false hedge hinit hclr hadd) h)

/-! ### The two ports -/

/-- Settles O55: the frame of a transition, the flags of a finalization, and the nine writes of a capture. -/
theorem edgePortWritesOnly : Obligations.EdgePortWritesOnly := by
  unfold Obligations.EdgePortWritesOnly
  intro s t level ts ms h
  obtain ⟨prev, heffect⟩ := exec_edge_effect h
  have hstore := execEdge_kept_or_appended h
  refine ⟨?_, heffect.keeps_msgReady, heffect.pairTimeout_cases, ?_,
    fun _ h0 hi => read_other_of_kept_or_appended hstore h0 hi⟩
  · have hframe := heffect.frame
    have hprev : t.prevTs = prev := (congrArg State.prevTs hframe :)
    rw [hprev]
    exact hframe
  · exact hstore.imp PairStoreKept.pairCount fun ⟨_, ha⟩ => ha.pairCount

/-- ENABLED is set by INIT and cleared by no command (R21). -/
theorem command_enabled {i : Instr} {s t : State} (hedge : ¬ isEdge i) (h : exec i s = .next t)
    (hs : s.enabled = true) : t.enabled = true := by
  cases i with
  | edge level ts ms => exact absurd ⟨level, ts, ms, rfl⟩ hedge
  | addpair e =>
    obtain rfl := Host.Outcome.next.inj h
    exact (addEntry_enabled s e).trans hs
  | setstat enable =>
    obtain rfl := Host.Outcome.next.inj h
    have hstats : (setStats enable s).enabled = s.enabled := (congrArg State.enabled (setStats_frame enable s) :)
    exact hstats.trans hs
  | getmsg | getstat =>
    obtain rfl := Host.Outcome.next.inj h
    split <;> exact hs
  | init =>
    obtain rfl := Host.Outcome.next.inj h
    rfl
  | _ =>
    obtain rfl := Host.Outcome.next.inj h
    exact hs

theorem command_stat_cases {i : Instr} {s t : State} (hedge : ¬ isEdge i) (h : exec i s = .next t) :
    t.stat = s.stat ∨ t.stat = s.cfg.statsDefault := by
  by_cases hset : i = .setstat 0
  · subst hset
    rw [exec_setstat, setStats_zero] at h
    obtain rfl := Host.Outcome.next.inj h
    exact .inr rfl
  · exact .inl (command_stat hedge hset h)

theorem command_read_other {i : Instr} {s t : State} (hedge : ¬ isEdge i) (h : exec i s = .next t) {a : NvAddr}
    (h0 : a ≠ nvAddr s.cfg 0) (hi : ∀ j : Fin 8, a ≠ nvAddr s.cfg (entryOffset s.pairCount.toNat j)) :
    t.nv.read a.toNat = s.nv.read a.toNat := by
  by_cases hcount : i = .init ∨ i = .clrpair
  · exact read_other_of_init_or_clrpair hcount h h0
  · obtain ⟨hinit, hclr⟩ := not_or.1 hcount
    exact read_other_of_kept_or_appended (command_kept_or_appended hedge hinit hclr h) h0 hi

/-- Settles O56: the frame of a command, its limits register by register, and what it writes in NV. -/
theorem hostPortWritesOnly : Obligations.HostPortWritesOnly := by
  unfold Obligations.HostPortWritesOnly
  intro i s t hedge h
  refine ⟨command_hostWrites hedge h, command_enabled hedge h, command_msgReady hedge h, command_stat_cases hedge h,
    fun _ => command_read_other hedge h, fun hi _ => read_other_of_init_or_clrpair hi h, fun hinit hclr hadd => ?_⟩
  have hkept := exec_kept_of_not_accessesNv i s t (accessesNv_eq_false hedge hinit hclr hadd) h
  exact ⟨hkept.nv, hkept.nvPort⟩

end Sys2Proof.Machine
end

section
/-! The decode FSM while a byte is received, state GB (R130 to R138). An event 3 or 5 appends its bits to ACC, is
sampled, and is followed by the completion check, whose three outcomes are an incomplete byte, a byte, and a message. -/

namespace Sys2Proof.Machine

open Sys2Proof.Safety

/-! ### The completion check after a sample -/

/-- A byte of BUF that exists is written. -/
theorem setIfInBounds_of_lt {n k : Nat} (m : Vector Byte n) (b : Byte) (hk : k < n) :
    m.setIfInBounds k b = m.set k b := by
  refine Vector.ext fun i hi => ?_
  rw [Vector.getElem_setIfInBounds, Vector.getElem_set]

theorem completionCheck_of_lt (ms : Time) {s : State} (h : s.bitCnt.toNat < 8) : completionCheck ms s = s :=
  if_neg h.not_ge

/-- R134: before the tenth byte. -/
theorem completionCheck_statsUpdate_of_byte (c : StatClass) (dur ms : Time) {s : State} (hbits : 8 ≤ s.bitCnt.toNat)
    (hbytes : s.byteCnt.toNat ≤ 8) :
    completionCheck ms (statsUpdate c dur s) = statsUpdate c dur
      { s with bitCnt := 0, buf := s.buf.set s.byteCnt.toNat s.acc, byteCnt := s.byteCnt + 1, dstate := .bsf } := by
  have hnotlast : s.byteCnt + 1 ≠ 10 := by bv_omega
  have hbuf := setIfInBounds_of_lt s.buf s.acc (Nat.lt_of_le_of_lt hbytes (by decide))
  rw [statsUpdate_eq c dur s, statsUpdate_eq]
  simp only [completionCheck, if_pos hbits, if_neg hnotlast, hbuf]

/-- R135: the tenth byte. -/
theorem completionCheck_statsUpdate_of_message (c : StatClass) (dur ms : Time) {s : State}
    (hbits : 8 ≤ s.bitCnt.toNat) (hbytes : s.byteCnt.toNat = 9) :
    completionCheck ms (statsUpdate c dur s) =
      { finalize ms (statsUpdate c dur { s with bitCnt := 0, buf := s.buf.set 9 s.acc, byteCnt := 10 }) with
        dstate := .idle } := by
  have hlast : s.byteCnt + 1 = 10 := by bv_omega
  have hbuf : s.buf.setIfInBounds s.byteCnt.toNat s.acc = s.buf.set 9 s.acc := by
    rw [hbytes, setIfInBounds_of_lt]
  rw [statsUpdate_eq c dur s, statsUpdate_eq]
  simp only [completionCheck, if_pos hbits, hlast, hbuf, if_true]

/-! ### An EDGE in GB -/

theorem gbStep_of_ne {ev : Event} (dur ms : Time) (s : State) (hs0 : ev ≠ .s0) (hs1 : ev ≠ .s1) (hl1 : ev ≠ .l1) :
    gbStep ev dur ms s = resync s := by
  cases ev with
  | s0 => exact absurd rfl hs0
  | s1 => exact absurd rfl hs1
  | l1 => exact absurd rfl hl1
  | _ => rfl

theorem exec_edge_of_gb {s : State} (level : BitVec 1) (ts ms : Time) (he : s.enabled = true) (hd : s.dstate = .gb) :
    exec (.edge level ts ms) s = .next (gbStep (classify level (sub32 ts s.prevTs)) (sub32 ts s.prevTs) ms
      { s with prevTs := ts }) := by
  rw [exec_edge_of_enabled level ts ms he]
  exact congrArg _ (fsmStep_of_gb _ _ ms hd)

/-- R131: an EDGE that appends the bit 1. -/
theorem exec_edge_of_gb_s1 {s : State} {level : BitVec 1} {ts : Time} (ms : Time) (he : s.enabled = true)
    (hd : s.dstate = .gb) (hev : forms s level ts .s1) :
    exec (.edge level ts ms) s = .next (completionCheck ms (statsUpdate .low1 (sub32 ts s.prevTs)
      { s with prevTs := ts, acc := shl1 s.acc, bitCnt := s.bitCnt + 1 })) := by
  rw [exec_edge_of_gb level ts ms he hd, hev, gbStep]

/-- R132: an EDGE that appends the bits 1 and 0. -/
theorem exec_edge_of_gb_l1 {s : State} {level : BitVec 1} {ts : Time} (ms : Time) (he : s.enabled = true)
    (hd : s.dstate = .gb) (hev : forms s level ts .l1) :
    exec (.edge level ts ms) s = .next (completionCheck ms (statsUpdate .low0 (sub32 ts s.prevTs)
      { s with prevTs := ts, acc := shl2 s.acc, bitCnt := s.bitCnt + 2 })) := by
  rw [exec_edge_of_gb level ts ms he hd, hev, gbStep]

/-- Settles O22: the row of event 2, and the row that the events without an append share. -/
theorem gettingByteWithoutAppend : Obligations.GettingByteWithoutAppend := by
  unfold Obligations.GettingByteWithoutAppend
  intro s level ts ms he hd
  have hstep := exec_edge_of_gb level ts ms he hd
  refine ⟨fun hs0 => ?_, fun hs0 hs1 hl1 => ?_⟩
  · rw [hstep, hs0, gbStep]
  · rw [hstep, gbStep_of_ne _ _ _ hs0 hs1 hl1, resync]

/-- Settles O23: the check after the append finds fewer than eight bits. -/
theorem appendStaysInGettingByte : Obligations.AppendStaysInGettingByte := by
  unfold Obligations.AppendStaysInGettingByte
  intro s level ts ms he hd
  refine ⟨fun hev hbits => ?_, fun hev hbits => ?_⟩
  · rw [exec_edge_of_gb_s1 ms he hd hev, completionCheck_of_lt]
    rw [statsUpdate_bitCnt]
    bv_omega
  · rw [exec_edge_of_gb_l1 ms he hd hev, completionCheck_of_lt]
    rw [statsUpdate_bitCnt]
    bv_omega

/-- Settles O24: the check after the append finds a whole byte, and room for it below the tenth. -/
theorem appendCompletesAByte : Obligations.AppendCompletesAByte := by
  unfold Obligations.AppendCompletesAByte
  intro s level ts ms hbytes he hd
  refine ⟨fun hev hbits => ?_, fun hev hbits => ?_⟩
  · have hfull : 8 ≤ (s.bitCnt + 1).toNat := by bv_omega
    rw [exec_edge_of_gb_s1 ms he hd hev, completionCheck_statsUpdate_of_byte _ _ ms hfull (by exact hbytes)]
  · have hfull : 8 ≤ (s.bitCnt + 2).toNat := by bv_omega
    rw [exec_edge_of_gb_l1 ms he hd hev, completionCheck_statsUpdate_of_byte _ _ ms hfull (by exact hbytes)]

/-- Settles O25: the check after the append finds the tenth byte whole. -/
theorem tenthByteFinalizes : Obligations.TenthByteFinalizes := by
  unfold Obligations.TenthByteFinalizes
  intro s level ts ms he hd hbytes
  refine ⟨fun hev hbits => ?_, fun hev hbits => ?_⟩
  · have hfull : 8 ≤ (s.bitCnt + 1).toNat := by bv_omega
    rw [exec_edge_of_gb_s1 ms he hd hev, completionCheck_statsUpdate_of_message _ _ ms hfull (by exact hbytes)]
  · have hfull : 8 ≤ (s.bitCnt + 2).toNat := by bv_omega
    rw [exec_edge_of_gb_l1 ms he hd hev, completionCheck_statsUpdate_of_message _ _ ms hfull (by exact hbytes)]

/-! ### The transition table -/

theorem completionCheck_dstate (ms : Time) (s : State) : (completionCheck ms s).dstate =
    if s.bitCnt.toNat < 8 then s.dstate else if s.byteCnt + 1 = 10 then .idle else .bsf := by
  rcases completionCheck_cases ms s with ⟨hlt, h⟩ | ⟨hge, hne, h⟩ | ⟨hge, hten, h⟩ <;> rw [h]
  · rw [if_pos hlt]
  · rw [if_neg hge.not_gt, if_neg hne]
  · rw [if_neg hge.not_gt, if_pos hten]

/-- R134, R135 as R136 tabulates them: an append of `n` bits, where the invariants of R43 keep the counts from
wrapping. -/
theorem completionCheck_append_dstate (c : StatClass) (dur ms : Time) {s : State} (a : Byte) {n : BitVec 4}
    (hn : n.toNat ≤ 2) (hbits : s.bitCnt.toNat ≤ 7) (hbytes : s.byteCnt.toNat ≤ 9) :
    (completionCheck ms (statsUpdate c dur { s with acc := a, bitCnt := s.bitCnt + n })).dstate =
      if s.bitCnt.toNat + n.toNat < 8 then s.dstate else if s.byteCnt.toNat + 1 = 10 then .idle else .bsf := by
  have hcount : (s.bitCnt + n).toNat = s.bitCnt.toNat + n.toNat := BitVec.toNat_add_of_lt (by omega)
  have hlast : s.byteCnt + 1 = 10 ↔ s.byteCnt.toNat + 1 = 10 := by
    constructor <;> intro <;> bv_omega
  simp only [completionCheck_dstate, statsUpdate_bitCnt, statsUpdate_byteCnt, statsUpdate_dstate, hcount, hlast]

/-- Settles O26: row by row of the FSM; in GB the table's two conditions are those of the completion check. -/
theorem transitionTable : Obligations.TransitionTable := by
  unfold Obligations.TransitionTable
  intro s level ts ms hinv he
  refine ⟨_, exec_edge_of_enabled level ts ms he, ?_⟩
  generalize classify level (sub32 ts s.prevTs) = ev
  have hbits := hinv.bitCnt_le
  have hbytes := hinv.byteCnt_receiving
  cases hd : s.dstate with
  | idle | msf | bsf => cases ev <;> rfl
  | gb =>
    have hbytes : s.byteCnt.toNat ≤ 9 := hbytes (.inr hd)
    cases ev with
    | s0 => exact statsUpdate_dstate ..
    | s1 => exact completionCheck_append_dstate (n := 1) .low1 _ ms _ (by decide) hbits hbytes
    | l1 => exact completionCheck_append_dstate (n := 2) .low0 _ ms _ (by decide) hbits hbytes
    | _ => rfl

/-! ### The order of the bits in ACC -/

theorem bitsValue_append_one (bits : List Bool) : bitsValue (bits ++ [true]) = 2 * bitsValue bits + 1 := by
  rw [bitsValue, List.foldl_append]; rfl

theorem bitsValue_append_one_zero (bits : List Bool) :
    bitsValue (bits ++ [true, false]) = 4 * bitsValue bits + 2 := by
  rw [bitsValue, List.foldl_append]
  change 2 * (2 * bitsValue bits + 1) + 0 = 4 * bitsValue bits + 2
  omega

/-- `t` has received the string `bits` after `s`, with no byte completed between them (R63). -/
structure ReceivedBits (s t : State) (bits : List Bool) : Prop where
  dstate : t.dstate = .gb
  bitCnt : t.bitCnt.toNat = s.bitCnt.toNat + bits.length
  acc : t.acc.toNat = (s.acc.toNat * 2 ^ bits.length + bitsValue bits) % 256
  buf : t.buf = s.buf
  byteCnt : t.byteCnt = s.byteCnt

theorem ReceivedBits.refl {s : State} (hd : s.dstate = .gb) : ReceivedBits s s [] where
  dstate := hd
  bitCnt := rfl
  acc := by
    have : s.acc.toNat < 256 := s.acc.isLt
    simp only [List.length_nil, pow_zero, bitsValue, List.foldl_nil]
    omega
  buf := rfl
  byteCnt := rfl

theorem fsmStep_s1_of_room {s : State} (dur ms : Time) (hd : s.dstate = .gb) (hroom : s.bitCnt.toNat ≤ 6) :
    fsmStep .s1 dur ms s = statsUpdate .low1 dur { s with acc := shl1 s.acc, bitCnt := s.bitCnt + 1 } := by
  rw [fsmStep_of_gb _ _ _ hd, gbStep, completionCheck_of_lt]
  rw [statsUpdate_bitCnt]
  bv_omega

theorem fsmStep_l1_of_room {s : State} (dur ms : Time) (hd : s.dstate = .gb) (hroom : s.bitCnt.toNat ≤ 5) :
    fsmStep .l1 dur ms s = statsUpdate .low0 dur { s with acc := shl2 s.acc, bitCnt := s.bitCnt + 2 } := by
  rw [fsmStep_of_gb _ _ _ hd, gbStep, completionCheck_of_lt]
  rw [statsUpdate_bitCnt]
  bv_omega

/-- Event 3 with room for its bit: the string grows by 1. -/
theorem ReceivedBits.append_s1 {s t : State} {bits : List Bool} (h : ReceivedBits s t bits) (dur ms : Time)
    (hroom : t.bitCnt.toNat ≤ 6) : ReceivedBits s (fsmStep .s1 dur ms t) (bits ++ [true]) := by
  rw [fsmStep_s1_of_room dur ms h.dstate hroom]
  refine ⟨(statsUpdate_dstate ..).trans h.dstate, ?_, ?_, (statsUpdate_buf ..).trans h.buf,
    (statsUpdate_byteCnt ..).trans h.byteCnt⟩
  · have hbits := h.bitCnt
    rw [statsUpdate_bitCnt, List.length_append, List.length_singleton]
    bv_omega
  · rw [statsUpdate_acc, shl1_toNat, h.acc, bitsValue_append_one, List.length_append, List.length_singleton,
      Nat.pow_succ, ← Nat.mul_assoc]
    omega

/-- Event 5 with room for its bits: the string grows by 1, 0. -/
theorem ReceivedBits.append_l1 {s t : State} {bits : List Bool} (h : ReceivedBits s t bits) (dur ms : Time)
    (hroom : t.bitCnt.toNat ≤ 5) : ReceivedBits s (fsmStep .l1 dur ms t) (bits ++ [true, false]) := by
  have hlength : (bits ++ [true, false]).length = bits.length + 2 := List.length_append
  rw [fsmStep_l1_of_room dur ms h.dstate hroom]
  refine ⟨(statsUpdate_dstate ..).trans h.dstate, ?_, ?_, (statsUpdate_buf ..).trans h.buf,
    (statsUpdate_byteCnt ..).trans h.byteCnt⟩
  · have hbits := h.bitCnt
    rw [statsUpdate_bitCnt, hlength]
    bv_omega
  · rw [statsUpdate_acc, shl2_toNat, h.acc, bitsValue_append_one_zero, hlength, Nat.pow_add, ← Nat.mul_assoc]
    omega

/-- A run of appends that leaves the byte incomplete, by induction on its last append. -/
theorem receivedBits_fsmRun {s : State} (hd : s.dstate = .gb) (evs : List (Event × Time × Time))
    (hevs : ∀ e ∈ evs, e.1 = .s1 ∨ e.1 = .l1)
    (hroom : s.bitCnt.toNat + (evs.flatMap fun e => eventBits e.1).length ≤ 7) :
    ReceivedBits s (fsmRun s evs) (evs.flatMap fun e => eventBits e.1) := by
  induction evs using List.reverseRecOn with
  | nil => exact .refl hd
  | append_singleton evs e ih =>
    obtain ⟨ev, dur, ms⟩ := e
    have hrun : fsmRun s (evs ++ [(ev, dur, ms)]) = fsmStep ev dur ms (fsmRun s evs) := List.foldl_append
    have hlast : (evs ++ [(ev, dur, ms)]).flatMap (fun e => eventBits e.1) =
        evs.flatMap (fun e => eventBits e.1) ++ eventBits ev := by simp
    rw [hlast, List.length_append] at hroom
    have hbefore := ih (fun e he => hevs e (List.mem_append_left _ he)) (by omega)
    have hcount := hbefore.bitCnt
    rw [hrun, hlast]
    have hev : ev = .s1 ∨ ev = .l1 := hevs (ev, dur, ms) (List.mem_append_right _ (List.mem_singleton_self _))
    rcases hev with rfl | rfl
    · have hone : (eventBits .s1).length = 1 := rfl
      exact hbefore.append_s1 dur ms (by omega)
    · have htwo : (eventBits .l1).length = 2 := rfl
      exact hbefore.append_l1 dur ms (by omega)

/-- Settles O27: the run as `ReceivedBits` states it. -/
theorem symbolBitsInOrder : Obligations.SymbolBitsInOrder := by
  unfold Obligations.SymbolBitsInOrder
  intro s evs hd hevs hroom
  obtain ⟨hdstate, hbits, hacc, hbuf, hbytes⟩ := receivedBits_fsmRun hd evs hevs hroom
  exact ⟨hdstate, hbits, hacc, hbuf, hbytes⟩

end Sys2Proof.Machine
end

section
/-! The pair store from operation to operation (R74, R179, R180). Every operation but INIT and CLRPAIR leaves the store,
here and in NV, or appends one entry that no valid entry matches (`StoreStep`); CLRPAIR and INIT have the equations of
`clearPairs` and `restore`. The mirror and the absence of duplicates follow from these. -/

namespace Sys2Proof.Machine

open Sys2Proof.Safety

/-! ### The two effects on the whole store -/

/-- The store is as before, the register file included. -/
structure StoreKept (s t : State) : Prop extends PairStoreKept s t where
  pair : t.pair = s.pair

/-- The append of an entry, the register file included (R173). -/
structure EntryAppended (s t : State) (e : Entry) : Prop extends Appended s t e where
  fresh : matchAny s e = false
  room : s.pairCount.toNat < s.cfg.maxPairs
  pair : t.pair = s.pair.set s.pairCount.toNat e
  cfg : t.cfg = s.cfg

/-- What an operation other than INIT and CLRPAIR does to the store. -/
def StoreStep (s t : State) : Prop := StoreKept s t ∨ ∃ e, EntryAppended s t e

theorem StoreKept.storeStep {s u t : State} (h : StoreKept s u) (h' : StoreStep u t) : StoreStep s t := by
  have hmatch (e : Entry) : matchAny u e = matchAny s e := by rw [matchAny, matchAny, h.pair, h.pairCount]
  rcases h' with hk | ⟨e, ha⟩
  · exact .inl ⟨h.toPairStoreKept.trans hk.toPairStoreKept, hk.pair.trans h.pair⟩
  · exact .inr ⟨e, h.toPairStoreKept.appended ha.toAppended, hmatch e ▸ ha.fresh,
      h.pairCount ▸ h.cfg ▸ ha.room, by rw [ha.pair, h.pair, h.pairCount], ha.cfg.trans h.cfg⟩

theorem StoreStep.trans_kept {s u t : State} (h : StoreStep s u) (h' : StoreKept u t) : StoreStep s t := by
  rcases h with hk | ⟨e, ha⟩
  · exact .inl ⟨hk.toPairStoreKept.trans h'.toPairStoreKept, h'.pair.trans hk.pair⟩
  · exact .inr ⟨e, ⟨h'.nvPort.trans ha.nvPort, h'.nv.trans ha.nv, h'.pairCount.trans ha.pairCount⟩, ha.fresh, ha.room,
      h'.pair.trans ha.pair, h'.cfg.trans ha.cfg⟩

theorem storeKept_of_receivesOnly {s t : State} (h : ReceivesOnly s t) : StoreKept s t := by
  rw [h]
  exact ⟨⟨rfl, rfl, rfl, rfl⟩, rfl⟩

theorem addEntry_storeStep (s : State) (e : Entry) : StoreStep s (addEntry s e) := by
  rcases addEntry_cases s e with h | ⟨hfresh, hroom, h⟩ <;> rw [h]
  · exact .inl ⟨.refl s, rfl⟩
  · exact .inr ⟨e, ⟨rfl, rfl, rfl⟩, hfresh, hroom, rfl, rfl⟩

theorem finalize_storeStep (ms : Time) (s : State) : StoreStep s (finalize ms s) := by
  rcases finalize_cases ms s with ⟨-, h⟩ | ⟨-, -, -, h⟩ | ⟨-, -, h⟩ <;> rw [h]
  · exact .inl ⟨⟨rfl, rfl, rfl, rfl⟩, rfl⟩
  · have hrecorded : StoreKept s { recordCandidate ms s with pairTimeout := 0 } := ⟨⟨rfl, rfl, rfl, rfl⟩, rfl⟩
    exact hrecorded.storeStep (addEntry_storeStep _ _)
  · exact .inl ⟨⟨rfl, rfl, rfl, rfl⟩, rfl⟩

theorem FsmEffect.storeStep {ms : Time} {s t : State} (h : FsmEffect ms s t) : StoreStep s t := by
  cases h with
  | receives h => exact .inl (storeKept_of_receivesOnly h)
  | finalizes u hd hu hbytes h =>
    subst h
    exact (storeKept_of_receivesOnly hu).storeStep ((finalize_storeStep ms u).trans_kept ⟨⟨rfl, rfl, rfl, rfl⟩, rfl⟩)

/-! ### Operations -/

theorem pair_of_not_accessesNv {i : Instr} {s t : State} (hi : accessesNv i = false) (h : exec i s = .next t) :
    t.pair = s.pair := by
  cases i with
  | init | addpair | edge | clrpair => cases hi
  | getmsg | getstat =>
    obtain rfl := Host.Outcome.next.inj h
    split <;> rfl
  | setstat enable =>
    obtain rfl := Host.Outcome.next.inj h
    exact (congrArg State.pair (setStats_frame enable s) :)
  | _ =>
    obtain rfl := Host.Outcome.next.inj h
    rfl

theorem exec_storeStep {i : Instr} {s t : State} (hinit : i ≠ .init) (hclr : i ≠ .clrpair)
    (h : exec i s = .next t) : StoreStep s t := by
  by_cases hedge : isEdge i
  · obtain ⟨level, ts, ms, rfl⟩ := hedge
    obtain ⟨prev, heffect⟩ := exec_edge_effect h
    have hprev : StoreKept s { s with prevTs := prev } := ⟨⟨rfl, rfl, rfl, rfl⟩, rfl⟩
    exact hprev.storeStep heffect.storeStep
  · by_cases hadd : isAddpair i
    · obtain ⟨e, rfl⟩ := hadd
      obtain rfl := Host.Outcome.next.inj h
      exact (addEntry_storeStep s e).trans_kept ⟨⟨rfl, rfl, rfl, rfl⟩, rfl⟩
    · have hi := accessesNv_eq_false hedge hinit hclr hadd
      exact .inl ⟨exec_kept_of_not_accessesNv i s t hi h, pair_of_not_accessesNv hi h⟩

theorem exec_clrpair_store {s t : State} (h : exec .clrpair s = .next t) :
    t.pair = s.pair ∧ t.pairCount = 0 ∧ t.nv = s.nv.write (nvAddr s.cfg 0).toNat 0 ∧ t.cfg = s.cfg := by
  obtain rfl := Host.Outcome.next.inj ((exec_clrpair s).symm.trans h)
  exact ⟨rfl, rfl, rfl, rfl⟩

/-- What INIT leaves of the store: the entries of NV, or the repair of a corrupt count (R175). -/
theorem exec_init_store {s t : State} (h : exec .init s = .next t) :
    t.cfg = s.cfg ∧
    (((nvByte s 0).toNat ≤ s.cfg.maxPairs ∧ t.pairCount = nvByte s 0 ∧
        t.pair = (loadEntries s (nvByte s 0).toNat).pair ∧ t.nv = s.nv) ∨
      ((nvByte s 0).toNat > s.cfg.maxPairs ∧ t.pairCount = 0 ∧ t.pair = s.pair ∧
        t.nv = s.nv.write (nvAddr s.cfg 0).toNat 0)) := by
  obtain rfl := Host.Outcome.next.inj ((exec_init s).symm.trans h)
  rcases restore_cases s with ⟨hle, hr⟩ | ⟨hgt, hr⟩ <;> rw [hr]
  · exact ⟨rfl, .inl ⟨hle, rfl, rfl, rfl⟩⟩
  · exact ⟨rfl, .inr ⟨hgt, rfl, rfl, rfl⟩⟩

/-! ### Entries keep their place -/

theorem entry_congr {s t : State} (h : t.pair = s.pair) (k : Nat) : entry t k = entry s k := by
  rw [entry, entry, h]

theorem EntryAppended.entry_of_ne {s t : State} {e : Entry} (h : EntryAppended s t e) {k : Nat}
    (hk : k ≠ s.pairCount.toNat) : entry t k = entry s k := by
  rw [entry, entry, h.pair, List.getD_eq_getElem?_getD, List.getElem?_set_ne hk.symm, ← List.getD_eq_getElem?_getD]

theorem StoreStep.entry_of_lt {s t : State} (h : StoreStep s t) {k : Nat} (hk : k < s.pairCount.toNat) :
    entry t k = entry s k := by
  rcases h with hkept | ⟨e, ha⟩
  · exact entry_congr hkept.pair k
  · exact ha.entry_of_ne hk.ne

theorem StoreStep.pairCount_cases {s t : State} (h : StoreStep s t) :
    t.pairCount = s.pairCount ∨ t.pairCount = s.pairCount + 1 :=
  h.imp (·.pairCount) fun ⟨_, ha⟩ => ha.pairCount

/-- Settles O40: CLRPAIR and INIT set the count, and every other operation is a `StoreStep`. -/
theorem entriesAreNeverMoved : Obligations.EntriesAreNeverMoved := by
  unfold Obligations.EntriesAreNeverMoved
  intro i s t h
  by_cases hinit : i = .init
  · subst hinit
    refine ⟨.inr (.inr (.inr ⟨rfl, ?_⟩)), fun hne => absurd rfl hne⟩
    obtain ⟨-, ⟨-, hcount, -⟩ | ⟨-, hcount, -⟩⟩ := exec_init_store h
    · exact .inr hcount
    · exact .inl hcount
  by_cases hclr : i = .clrpair
  · subst hclr
    obtain ⟨hpair, hcount, -⟩ := exec_clrpair_store h
    exact ⟨.inr (.inr (.inl ⟨rfl, hcount⟩)), fun _ k _ => entry_congr hpair k⟩
  have hstep := exec_storeStep hinit hclr h
  exact ⟨hstep.pairCount_cases.imp_right .inl, fun _ _ => hstep.entry_of_lt⟩

/-! ### The mirror -/

/-- A valid place lies in the range of R61, whose addresses do not wrap together (R8). -/
theorem maxPairs_le_of_invariants {s : State} (h : Invariants s) : s.cfg.maxPairs ≤ 255 := by
  have hcfg := h.cfg_wf
  simp only [Config.Params.wf, Bool.and_eq_true, decide_eq_true_eq] at hcfg
  omega

/-- An entry byte does not stand where the count does. -/
theorem nvAddr_entryOffset_ne_count (p : Config.Params) {k : Nat} (hk : k < 8191) (i : Fin 8) :
    (nvAddr p (entryOffset k i)).toNat ≠ (nvAddr p 0).toNat := by
  intro h
  have := nvAddr_inj p _ _ (by unfold entryOffset; omega) (by omega) h
  unfold entryOffset at this
  omega

/-- The bytes of two entries stand apart. -/
theorem nvAddr_entryOffset_ne (p : Config.Params) {j k : Nat} (hj : j < 8191) (hk : k < 8191) (hjk : j ≠ k)
    (i l : Fin 8) : (nvAddr p (entryOffset j i)).toNat ≠ (nvAddr p (entryOffset k l)).toNat := fun h =>
  hjk (entryOffset_inj j k i l (nvAddr_inj p _ _ (by unfold entryOffset; omega) (by unfold entryOffset; omega) h)).1

theorem nvByte_congr {s t : State} (hnv : t.nv = s.nv) (hcfg : t.cfg = s.cfg) (off : Nat) :
    nvByte t off = nvByte s off := by
  rw [nvByte, nvByte, hnv, hcfg]

/-- With a count of 0, the mirror is the persisted count alone. -/
theorem mirror_of_pairCount_eq_zero {s : State} (hcount : s.pairCount = 0) (hnv : nvByte s 0 = 0) : Mirror s := by
  refine ⟨hnv.trans hcount.symm, fun k hk => ?_⟩
  rw [hcount] at hk
  exact absurd hk (Nat.not_lt_zero k)

theorem nvByte_count_of_write {s t : State} (hwf : s.nv.wf = true) {b : Byte}
    (hnv : t.nv = s.nv.write (nvAddr s.cfg 0).toNat b) (hcfg : t.cfg = s.cfg) : nvByte t 0 = b := by
  rw [nvByte, hnv, hcfg, Memory.read_write_same _ _ _ hwf]

theorem StoreKept.mirror {s t : State} (h : StoreKept s t) (hm : Mirror s) : Mirror t := by
  have hbyte := nvByte_congr h.nv h.cfg
  refine ⟨by rw [hbyte, h.pairCount, hm.1], fun k hk i => ?_⟩
  rw [h.pairCount] at hk
  rw [hbyte, entry_congr h.pair, hm.2 k hk]

theorem EntryAppended.pairCount_toNat {s t : State} {e : Entry} (h : EntryAppended s t e) (hinv : Invariants s) :
    t.pairCount.toNat = s.pairCount.toNat + 1 := by
  rw [h.pairCount, pairCount_succ_toNat (pairCount_lt_of_capacity hinv h.room)]

theorem EntryAppended.entry_new {s t : State} {e : Entry} (h : EntryAppended s t e) (hinv : Invariants s) :
    entry t s.pairCount.toNat = e :=
  entry_set_self h.pair (hinv.pair_length ▸ h.room)

/-- The nine writes of an append extend the mirror by the new entry and the new count. -/
theorem EntryAppended.mirror {s t : State} {e : Entry} (h : EntryAppended s t e) (hinv : Invariants s)
    (hm : Mirror s) : Mirror t := by
  have hmax := maxPairs_le_of_invariants hinv
  have hroom := h.room
  obtain ⟨hcount, hnew, hother⟩ :=
    appendWrites_cases s.cfg s.pairCount.toNat e (s.pairCount + 1) s.nv hinv.nv_wf (by omega)
  have hread (off : Nat) : nvByte t off =
      ((appendWrites s.cfg s.pairCount.toNat e (s.pairCount + 1)).foldl applyAccess s.nv).read
        (nvAddr s.cfg off).toNat := by
    rw [nvByte, h.nv, h.cfg]
    rfl
  refine ⟨by rw [hread, hcount, h.pairCount], fun k hk i => ?_⟩
  rw [h.pairCount_toNat hinv] at hk
  rcases Nat.lt_succ_iff_lt_or_eq.1 hk with hold | rfl
  · rw [hread, hother _ (nvAddr_entryOffset_ne_count _ (by omega) i)
      (nvAddr_entryOffset_ne _ (by omega) (by omega) hold.ne i), h.entry_of_ne hold.ne]
    exact hm.2 k hold i
  · rw [hread, hnew, h.entry_new hinv]

theorem exec_init_mirror {s t : State} (hinv : Invariants s) (h : exec .init s = .next t) : Mirror t := by
  obtain ⟨hcfg, ⟨hle, hcount, hpair, hnv⟩ | ⟨-, hcount, -, hnv⟩⟩ := exec_init_store h
  · have hbyte := nvByte_congr hnv hcfg
    refine ⟨by rw [hbyte, hcount], fun k hk i => ?_⟩
    rw [hcount] at hk
    rw [hbyte, entry_of_lt_of_loadEntries hpair hk (hinv.pair_length ▸ hk.trans_le hle)]
  · exact mirror_of_pairCount_eq_zero hcount (nvByte_count_of_write hinv.nv_wf hnv hcfg)

theorem exec_mirror {i : Instr} {s t : State} (hinv : Invariants s) (hm : Mirror s) (h : exec i s = .next t) :
    Mirror t := by
  by_cases hinit : i = .init
  · subst hinit
    exact exec_init_mirror hinv h
  by_cases hclr : i = .clrpair
  · subst hclr
    obtain ⟨-, hcount, hnv, hcfg⟩ := exec_clrpair_store h
    exact mirror_of_pairCount_eq_zero hcount (nvByte_count_of_write hinv.nv_wf hnv hcfg)
  rcases exec_storeStep hinit hclr h with hk | ⟨e, ha⟩
  · exact hk.mirror hm
  · exact ha.mirror hinv hm

/-- Settles O42: INIT by what `restore` loads or repairs, an append by its nine writes, CLRPAIR by its one. -/
theorem mirrorIsEstablishedAndKept : Obligations.MirrorIsEstablishedAndKept :=
  ⟨fun _ _ => exec_init_mirror, fun _ _ _ => exec_mirror⟩

theorem nvEntry_eq_of_mirror {s : State} (hm : Mirror s) {k : Nat} (hk : k < s.pairCount.toNat) :
    nvEntry s k = entry s k :=
  Vector.ext fun i hi => (nvEntry_get s k ⟨i, hi⟩).trans (hm.2 k hk ⟨i, hi⟩)

/-- Reloading what the mirror holds leaves the register file. -/
theorem loadEntries_pair_of_mirror {s : State} (hm : Mirror s) : (loadEntries s s.pairCount.toNat).pair = s.pair := by
  refine List.ext_getElem? fun k => ?_
  rw [loadEntries_pair_get]
  split_ifs with hk
  · rw [nvEntry_eq_of_mirror hm hk, entry, List.getD_eq_getElem?_getD]
    cases s.pair[k]? <;> rfl
  · rfl

/-- Settles O43: under the mirror the persisted count is in range, and `restore` reloads the registers it finds. -/
theorem secondInitReloadsTheSame : Obligations.SecondInitReloadsTheSame := by
  unfold Obligations.SecondInitReloadsTheSame
  intro s hinv hm
  refine ⟨_, exec_init s, ?_⟩
  rw [restore_of_le (hm.1 ▸ hinv.pairCount_le), hm.1, loadEntries_pair_of_mirror hm]
  rfl

/-! ### No duplicates -/

theorem noDuplicates_of_pairCount_eq_zero {s : State} (hcount : s.pairCount = 0) : NoDuplicates s := by
  intro j k _ hk
  rw [hcount] at hk
  exact absurd hk (Nat.not_lt_zero k)

/-- An appended entry matches no entry before it, since the CAM found none. -/
theorem EntryAppended.noDuplicates {s t : State} {e : Entry} (h : EntryAppended s t e) (hinv : Invariants s)
    (hdup : NoDuplicates s) : NoDuplicates t := by
  have hfresh : ¬ ∃ k, k < s.pairCount.toNat ∧ entryMatch (entry s k) e = true :=
    mt (matchAny_iff (hinv.pair_length ▸ hinv.pairCount_le) e).2 (Bool.eq_false_iff.1 h.fresh)
  intro j k hjk hk
  rw [h.pairCount_toNat hinv] at hk
  rcases Nat.lt_succ_iff_lt_or_eq.1 hk with hold | rfl
  · rw [h.entry_of_ne hold.ne, h.entry_of_ne (hjk.trans hold).ne]
    exact hdup j k hjk hold
  · rw [h.entry_new hinv, h.entry_of_ne hjk.ne]
    exact Bool.eq_false_iff.2 fun hmatch => hfresh ⟨j, hjk, hmatch⟩

theorem exec_noDuplicates {i : Instr} {s t : State} (hinit : i ≠ .init) (hinv : Invariants s) (hdup : NoDuplicates s)
    (h : exec i s = .next t) : NoDuplicates t := by
  by_cases hclr : i = .clrpair
  · subst hclr
    obtain ⟨-, hcount, -⟩ := exec_clrpair_store h
    exact noDuplicates_of_pairCount_eq_zero hcount
  rcases exec_storeStep hinit hclr h with hk | ⟨e, ha⟩
  · intro j k hjk hkt
    rw [hk.pairCount] at hkt
    rw [entry_congr hk.pair, entry_congr hk.pair]
    exact hdup j k hjk hkt
  · exact ha.noDuplicates hinv hdup

theorem exec_init_noDuplicates {s t : State} (hinv : Invariants s) (hdup : NoPersistedDuplicates s)
    (h : exec .init s = .next t) : NoDuplicates t := by
  obtain ⟨-, ⟨hle, hcount, hpair, -⟩ | ⟨-, hcount, -⟩⟩ := exec_init_store h
  · have hentry {k : Nat} (hk : k < (nvByte s 0).toNat) : entry t k = nvEntry s k := by
      rw [entry, hpair, loadEntries_pair_getD, if_pos ⟨hk, hinv.pair_length ▸ hk.trans_le hle⟩]
    intro j k hjk hk
    rw [hcount] at hk
    rw [hentry hk, hentry (hjk.trans hk)]
    exact hdup hle j k hjk hk
  · exact noDuplicates_of_pairCount_eq_zero hcount

theorem noPersistedDuplicates_of_mirror {s : State} (hm : Mirror s) (hdup : NoDuplicates s) :
    NoPersistedDuplicates s := by
  intro _ j k hjk hk
  rw [hm.1] at hk
  rw [nvEntry_eq_of_mirror hm hk, nvEntry_eq_of_mirror hm (hjk.trans hk)]
  exact hdup j k hjk hk

/-- Settles O44: an append is of an entry the CAM did not find, and INIT loads what NV holds, which is what the
registers hold while the mirror does. -/
theorem noDuplicatesAreKept : Obligations.NoDuplicatesAreKept :=
  ⟨fun _ _ _ => exec_noDuplicates, fun _ _ => exec_init_noDuplicates,
    fun _ _ hinv hm hdup => exec_init_noDuplicates hinv (noPersistedDuplicates_of_mirror hm hdup)⟩

end Sys2Proof.Machine
end

section
/-! An operation cut short by reset (R66, R255). Its accesses to NV are all reads, or the one write of CLRPAIR, or the
nine writes of an append. Of the nine, the count is written last: cut off before it, they have written only bytes of an
entry that the old count does not reach. -/

namespace Sys2Proof.Machine

open Sys2Proof.Safety

theorem samePersisted_refl (p : Config.Params) (m : Memory) : SamePersisted p m m := ⟨rfl, fun _ _ _ => rfl⟩

/-- Cut off before its count, an append leaves the persisted store as it was. -/
theorem samePersisted_take_entryWrites {s : State} (hinv : Invariants s) (hm : Mirror s)
    (hroom : s.pairCount.toNat < s.cfg.maxPairs) (e : Entry) (n : Nat) :
    SamePersisted s.cfg s.nv (((entryWrites s.cfg s.pairCount.toNat e).take n).foldl applyAccess s.nv) := by
  have hmax := maxPairs_le_of_invariants hinv
  have hother (a : Nat) (ha : ∀ i : Fin 8, a ≠ (nvAddr s.cfg (entryOffset s.pairCount.toNat i)).toNat) :
      (((entryWrites s.cfg s.pairCount.toNat e).take n).foldl applyAccess s.nv).read a = s.nv.read a := by
    refine read_foldl_applyAccess_other _ _ _ fun x hx addr haddr => ?_
    obtain ⟨i, rfl⟩ := entryWrites_writtenTo _ _ _ x (List.mem_of_mem_take hx) addr haddr
    exact ha i
  have hcount : s.nv.read (nvAddr s.cfg 0).toNat = s.pairCount := hm.1
  refine ⟨(hother _ fun i => (nvAddr_entryOffset_ne_count s.cfg (by omega) i).symm).symm, fun k hk i => ?_⟩
  rw [hcount] at hk
  exact (hother _ (nvAddr_entryOffset_ne s.cfg (by omega) (by omega) hk.ne i)).symm

/-- The first `n` of the accesses `acc` leave NV as it was before them or as all of them leave it. -/
def OldOrNew (s : State) (acc : List NvAccess) (n : Nat) : Prop :=
  SamePersisted s.cfg s.nv ((acc.take n).foldl applyAccess s.nv) ∨
    (acc.take n).foldl applyAccess s.nv = acc.foldl applyAccess s.nv

theorem oldOrNew_of_length_le (s : State) {acc : List NvAccess} {n : Nat} (h : acc.length ≤ n) : OldOrNew s acc n :=
  .inr (by rw [List.take_of_length_le h])

theorem oldOrNew_of_reads (s : State) {acc : List NvAccess} (h : ∀ x ∈ acc, x.writtenTo = none) (n : Nat) :
    OldOrNew s acc n := by
  refine .inr ?_
  rw [foldl_applyAccess_of_reads _ s.nv h, foldl_applyAccess_of_reads _ s.nv fun x hx => h x (List.mem_of_mem_take hx)]

theorem oldOrNew_singleton (s : State) (x : NvAccess) (n : Nat) : OldOrNew s [x] n := by
  cases n with
  | zero => exact .inl (samePersisted_refl _ _)
  | succ n => exact oldOrNew_of_length_le s (Nat.le_add_left 1 n)

theorem oldOrNew_append {s : State} (hinv : Invariants s) (hm : Mirror s)
    (hroom : s.pairCount.toNat < s.cfg.maxPairs) (e : Entry) (count : Byte) (n : Nat) :
    OldOrNew s (appendAccesses s.cfg s.pairCount.toNat e count) n := by
  rcases Nat.lt_or_ge 8 n with hall | hcut
  · exact oldOrNew_of_length_le s hall
  · refine .inl ?_
    rw [appendAccesses, List.take_append_of_le_length hcut]
    exact samePersisted_take_entryWrites hinv hm hroom e n

/-- Every operation, cut short anywhere; what it put on the port before does not matter. -/
theorem exec_oldOrNew {i : Instr} {s t : State} (hinv : Invariants s) (hm : Mirror s) (h : exec i s = .next t) :
    ∃ acc, t.nvPort = s.nvPort ++ acc ∧ t.nv = acc.foldl applyAccess s.nv ∧ ∀ n, OldOrNew s acc n := by
  by_cases hinit : i = .init
  · subst hinit
    rcases execInit_accesses s t h with ⟨hgt, -, -⟩ | ⟨-, hport, hnv⟩
    · rw [hm.1] at hgt
      exact absurd hinv.pairCount_le hgt.not_ge
    · have hreads := writtenTo_of_mem_restoreAccesses s (nvByte s 0).toNat
      exact ⟨_, hport, hnv.trans (foldl_applyAccess_of_reads _ s.nv hreads).symm, oldOrNew_of_reads s hreads⟩
  by_cases hclr : i = .clrpair
  · subst hclr
    obtain rfl := Host.Outcome.next.inj ((exec_clrpair s).symm.trans h)
    exact ⟨_, rfl, rfl, oldOrNew_singleton s _⟩
  rcases exec_storeStep hinit hclr h with hk | ⟨e, ha⟩
  · obtain ⟨hport, hnv⟩ := hk.no_accesses
    exact ⟨[], hport, hnv, fun n => oldOrNew_of_length_le s (Nat.zero_le n)⟩
  · exact ⟨_, ha.nvPort, ha.nv, oldOrNew_append hinv hm ha.room e _⟩

theorem registersReset_cutShort (n : Nat) (s t : State) : RegistersReset (cutShort n s t) :=
  { registersReset_resetCore s with }

theorem step_of_cut {s t : State} {r : Request} {n : Nat} {rest : List Arrival}
    (h : s.inbox = { arrivalOf r with reset := .during n } :: rest)
    (ht : exec (decode r) { s with inbox := rest, resp := none, nvPort := [] } = .next t) :
    step s = .next (cutShort n { s with inbox := rest, resp := none, nvPort := [] } t) := by
  rw [step_of_inbox_cons h]
  exact performCut_eq ((perform_arrivalOf r (.during n) _).trans ht)

/-- Settles O12: the cut operation did the first `n` of the accesses that `exec_oldOrNew` lists. -/
theorem tornOperationLeavesOldOrNewStore : Obligations.TornOperationLeavesOldOrNewStore := by
  unfold Obligations.TornOperationLeavesOldOrNewStore
  intro s r n rest hinv hm h
  obtain ⟨u, hu⟩ := exec_total (decode r) { s with inbox := rest, resp := none, nvPort := [] }
  have hinv' : Invariants { s with inbox := rest, resp := none, nvPort := [] } := { hinv with }
  obtain ⟨acc, hport, hnv, hcut⟩ := exec_oldOrNew hinv' hm hu
  have htorn : (cutShort n { s with inbox := rest, resp := none, nvPort := [] } u).nv =
      (acc.take n).foldl applyAccess s.nv := by
    rw [cutShort, hport]; rfl
  refine ⟨_, u, step_of_cut h hu, hu, registersReset_cutShort _ _ _, ?_⟩
  rw [htorn, hnv]
  rcases hcut n with hold | hnew
  · exact .inl hold
  · exact .inr (hnew.symm ▸ samePersisted_refl s.cfg _)

end Sys2Proof.Machine
end

section
/-! The invariants of R43 and of R137. A step is packaged once (`step_keeps`): a predicate that does not read the ports,
that every operation keeps and that a reset restores, is kept by every step. Each invariant then needs one lemma per
state of the FSM, where the completion check is the only place that looks at a whole byte. -/

namespace Sys2Proof.Machine

open Sys2Proof.Safety

/-! ### One step -/

/-- Resets among them, cut operations too: those leave the registers of reset over some accesses to NV. -/
theorem step_keeps {P : State → Prop}
    (hports : ∀ s inbox resp port, P s → P { s with inbox := inbox, resp := resp, nvPort := port })
    (hexec : ∀ i s t, P s → exec i s = .next t → P t)
    (hreset : ∀ (s : State) (l : List NvAccess), P s → P (State.initial s.cfg (l.foldl applyAccess s.nv) s.inbox))
    {s t : State} (hs : P s) (h : step s = .next t) : P t := by
  have hperform {a : Arrival} {u v : State} (hu : P u) (hv : perform a u = .next v) : P v := by
    unfold perform at hv
    split at hv
    · exact hexec _ _ v (hports u _ u.resp u.nvPort hu) hv
    · obtain rfl := Host.Outcome.next.inj hv
      exact hu
  rcases serveNext_cases s with ⟨-, hserve⟩ | ⟨a, rest, -, ⟨-, hserve⟩ | ⟨-, hserve⟩ | ⟨n, -, hserve⟩⟩
  · obtain rfl := Host.Outcome.next.inj (hserve.symm.trans h)
    exact hs
  · exact hperform (hports s rest none [] hs) (hserve.symm.trans h)
  · obtain rfl := Host.Outcome.next.inj (hserve.symm.trans h)
    exact hreset _ [] (hports s rest none [] hs)
  · obtain ⟨u, hu⟩ := perform_total a (clearOutputs { s with inbox := rest })
    obtain rfl := Host.Outcome.next.inj ((performCut_eq hu).symm.trans (hserve.symm.trans h))
    exact hports _ _ none _ (hreset _ _ (hports s rest none [] hs))

/-! ### The counts of R25 and R26 -/

/-- The part of R43 about BIT_CNT and BYTE_CNT. -/
structure CountsOk (s : State) : Prop where
  bitCnt_le : s.bitCnt.toNat ≤ 7
  byteCnt_le : s.byteCnt.toNat ≤ 10
  byteCnt_receiving : s.dstate = .bsf ∨ s.dstate = .gb → s.byteCnt.toNat ≤ 9

theorem countsOk_of_invariants {s : State} (h : Invariants s) : CountsOk s :=
  ⟨h.bitCnt_le, h.byteCnt_le, h.byteCnt_receiving⟩

/-- Leaving reception asks nothing of BYTE_CNT but its bound. -/
theorem CountsOk.leave {s : State} (h : CountsOk s) {d : DState} (hbsf : d ≠ .bsf) (hgb : d ≠ .gb) :
    CountsOk { s with dstate := d } :=
  ⟨h.bitCnt_le, h.byteCnt_le, fun hd => (hd.elim hbsf hgb).elim⟩

/-- Whatever BIT_CNT was, the check leaves fewer than eight bits (R134). -/
theorem completionCheck_countsOk (ms : Time) {s : State} (hbytes : s.byteCnt.toNat ≤ 9) :
    CountsOk (completionCheck ms s) := by
  rcases completionCheck_cases ms s with ⟨hlt, h⟩ | ⟨-, hne, h⟩ | ⟨-, hten, h⟩ <;> rw [h]
  · exact ⟨Nat.le_of_lt_succ hlt, by omega, fun _ => hbytes⟩
  · have hnext : (s.byteCnt + 1).toNat ≤ 9 := by bv_omega
    exact ⟨Nat.zero_le _, hnext.trans (by decide), fun _ => hnext⟩
  · have hcount : (finalize ms { s with
        buf := s.buf.setIfInBounds s.byteCnt.toNat s.acc, byteCnt := s.byteCnt + 1, bitCnt := 0 }).byteCnt = 10 :=
      (finalize_byteCnt ..).trans hten
    refine ⟨?_, ?_, fun hd => by rcases hd with hd | hd <;> cases hd⟩
    · rw [finalize_bitCnt]
      exact Nat.zero_le _
    · rw [hcount]
      decide

theorem statsUpdate_countsOk (c : StatClass) (dur : Time) {s : State} (h : CountsOk s) :
    CountsOk (statsUpdate c dur s) := by
  rw [statsUpdate_eq]
  exact { h with }

theorem fsmStep_countsOk (ev : Event) (dur ms : Time) {s : State} (h : CountsOk s) :
    CountsOk (fsmStep ev dur ms s) := by
  cases hd : s.dstate with
  | idle =>
    rw [fsmStep_of_idle _ _ _ hd]
    cases ev with
    | g1 => exact h.leave (by decide) (by decide)
    | _ => exact h
  | msf =>
    rw [fsmStep_of_msf _ _ _ hd]
    cases ev with
    | s0 => exact h
    | s1 => exact ⟨Nat.zero_le _, Nat.zero_le _, fun _ => Nat.zero_le _⟩
    | _ => exact h.leave (by decide) (by decide)
  | bsf =>
    have hbytes := h.byteCnt_receiving (.inl hd)
    rw [fsmStep_of_bsf _ _ _ hd]
    cases ev with
    | s0 => exact h
    | s1 => exact ⟨Nat.zero_le _, h.byteCnt_le, fun _ => hbytes⟩
    | l1 => exact ⟨(by decide : (1 : BitVec 4).toNat ≤ 7), h.byteCnt_le, fun _ => hbytes⟩
    | _ => exact h.leave (by decide) (by decide)
  | gb =>
    have hbytes := h.byteCnt_receiving (.inr hd)
    rw [fsmStep_of_gb _ _ _ hd]
    cases ev with
    | s0 => exact statsUpdate_countsOk .high dur h
    | s1 | l1 => exact completionCheck_countsOk ms (by rw [statsUpdate_byteCnt]; exact hbytes)
    | _ => exact h.leave (by decide) (by decide)

theorem exec_countsOk {i : Instr} {s t : State} (hs : CountsOk s) (h : exec i s = .next t) : CountsOk t := by
  by_cases hedge : isEdge i
  · obtain ⟨level, ts, ms, rfl⟩ := hedge
    obtain rfl := Host.Outcome.next.inj ((exec_edge level ts ms s).symm.trans h)
    split
    · exact fsmStep_countsOk _ _ ms { hs with }
    · exact hs
  · rw [command_hostWrites hedge h]
    exact { hs with }

/-! ### The store and the repeat count -/

/-- The part of R43 about the pair store and NV. -/
structure StoreOk (s : State) : Prop where
  cfg_wf : s.cfg.wf = true
  pair_length : s.pair.length = s.cfg.maxPairs
  pairCount_le : s.pairCount.toNat ≤ s.cfg.maxPairs
  nv_wf : s.nv.wf = true

theorem StoreKept.storeOk {s t : State} (h : StoreKept s t) (hinv : Invariants s) : StoreOk t where
  cfg_wf := by rw [h.cfg, hinv.cfg_wf]
  pair_length := by rw [h.cfg, h.pair, hinv.pair_length]
  pairCount_le := by rw [h.cfg, h.pairCount]; exact hinv.pairCount_le
  nv_wf := by rw [h.nv, hinv.nv_wf]

theorem EntryAppended.storeOk {s t : State} {e : Entry} (h : EntryAppended s t e) (hinv : Invariants s) :
    StoreOk t where
  cfg_wf := by rw [h.cfg, hinv.cfg_wf]
  pair_length := by rw [h.cfg, h.pair, List.length_set, hinv.pair_length]
  pairCount_le := by rw [h.cfg, h.pairCount_toNat hinv]; exact h.room
  nv_wf := by rw [h.nv, foldl_applyAccess_wf _ _ hinv.nv_wf]

theorem write_count_wf {s : State} (hinv : Invariants s) (b : Byte) :
    (s.nv.write (nvAddr s.cfg 0).toNat b).wf = true :=
  Memory.write_wf _ _ _ (nvAddr s.cfg 0).isLt hinv.nv_wf

theorem exec_storeOk {i : Instr} {s t : State} (hinv : Invariants s) (h : exec i s = .next t) : StoreOk t := by
  by_cases hinit : i = .init
  · subst hinit
    obtain ⟨hcfg, ⟨hle, hcount, hpair, hnv⟩ | ⟨-, hcount, hpair, hnv⟩⟩ := exec_init_store h
    · exact ⟨by rw [hcfg, hinv.cfg_wf], by rw [hcfg, hpair, loadEntries_pair_length, hinv.pair_length],
        by rw [hcfg, hcount]; exact hle, by rw [hnv, hinv.nv_wf]⟩
    · exact ⟨by rw [hcfg, hinv.cfg_wf], by rw [hcfg, hpair, hinv.pair_length], by rw [hcount]; exact Nat.zero_le _,
        by rw [hnv, write_count_wf hinv]⟩
  by_cases hclr : i = .clrpair
  · subst hclr
    obtain ⟨hpair, hcount, hnv, hcfg⟩ := exec_clrpair_store h
    exact ⟨by rw [hcfg, hinv.cfg_wf], by rw [hcfg, hpair, hinv.pair_length], by rw [hcount]; exact Nat.zero_le _,
      by rw [hnv, write_count_wf hinv]⟩
  rcases exec_storeStep hinit hclr h with hk | ⟨e, ha⟩
  · exact hk.storeOk hinv
  · exact ha.storeOk hinv

/-- R153: a new repeat count is 0, 1 or capped at 256. -/
theorem nextRepeatCnt_le (now : Time) (s : State) : (nextRepeatCnt now s).toNat ≤ 256 := by
  unfold nextRepeatCnt
  split_ifs
  · decide
  · rw [satinc_toNat]
    exact Nat.min_le_right ..
  · decide
  · decide

theorem FsmEffect.repeatCnt_le {ms : Time} {s t : State} (h : FsmEffect ms s t) (hs : s.repeatCnt.toNat ≤ 256) :
    t.repeatCnt.toNat ≤ 256 := by
  cases h with
  | receives h =>
    have hkept : t.repeatCnt = s.repeatCnt := (congrArg State.repeatCnt h :)
    rwa [hkept]
  | finalizes u hd hu hbytes h =>
    subst h
    exact (congrArg BitVec.toNat (finalize_repeatCnt ms u)).trans_le (nextRepeatCnt_le ms u)

theorem exec_repeatCnt_le {i : Instr} {s t : State} (hs : s.repeatCnt.toNat ≤ 256) (h : exec i s = .next t) :
    t.repeatCnt.toNat ≤ 256 := by
  by_cases hedge : isEdge i
  · obtain ⟨level, ts, ms, rfl⟩ := hedge
    obtain ⟨prev, heffect⟩ := exec_edge_effect h
    exact heffect.repeatCnt_le hs
  · have hkept : t.repeatCnt = s.repeatCnt := (congrArg State.repeatCnt (command_hostWrites hedge h) :)
    rwa [hkept]

/-! ### The invariants of R43 -/

theorem exec_invariants {i : Instr} {s t : State} (hinv : Invariants s) (h : exec i s = .next t) : Invariants t :=
  { exec_storeOk hinv h, exec_countsOk (countsOk_of_invariants hinv) h with
    repeatCnt_le := exec_repeatCnt_le hinv.repeatCnt_le h }

theorem invariants_initial {cfg : Config.Params} {nv : Memory} (inbox : List Arrival) (hcfg : cfg.wf = true)
    (hnv : nv.wf = true) : Invariants (State.initial cfg nv inbox) where
  cfg_wf := hcfg
  pair_length := List.length_replicate
  pairCount_le := Nat.zero_le _
  bitCnt_le := Nat.zero_le _
  byteCnt_le := Nat.zero_le _
  byteCnt_receiving _ := Nat.zero_le _
  repeatCnt_le := Nat.zero_le _
  nv_wf := hnv

/-- R8: the constraints hold of every choice of the open parameters. -/
theorem config_params_wf : Config.params.wf = true := by
  have hcap : Config.maxPairs ≤ 255 := Config.capacityChoice.isLt
  have hbase : Config.nvBase.toNat < 65536 - 8 * Config.maxPairs := by
    rw [Config.nvBase, BitVec.toNat_ofNat]
    exact (Nat.mod_le _ _).trans_lt (Nat.mod_lt _ (by omega))
  have hone : 1 ≤ Config.maxPairs := Nat.le_add_left 1 _
  simp only [Config.Params.wf, Config.params, Bool.and_eq_true]
  exact ⟨⟨decide_eq_true hone, decide_eq_true hcap⟩, decide_eq_true (by omega)⟩

/-- Settles O59: the operations keep the invariants, and a reset restores them over the NV it finds. -/
theorem everyStepKeepsTheInvariants : Obligations.EveryStepKeepsTheInvariants := fun _ _ hs h =>
  step_keeps (P := Invariants) (fun _ _ _ _ hinv => { hinv with }) (fun _ _ _ => exec_invariants)
    (fun s l hinv => invariants_initial s.inbox hinv.cfg_wf (foldl_applyAccess_wf l s.nv hinv.nv_wf)) hs h

/-! ### The bits of an append -/

theorem getLsbD_shl1_zero (a : Byte) : (shl1 a).getLsbD 0 = true := by
  rw [shl1_eq_setWidth, BitVec.getLsbD_setWidth, BitVec.getLsbD_append]
  rfl

theorem getLsbD_shl1_succ (a : Byte) {i : Nat} (hi : i + 1 < 8) : (shl1 a).getLsbD (i + 1) = a.getLsbD i := by
  rw [shl1_eq_setWidth, BitVec.getLsbD_setWidth, BitVec.getLsbD_append, if_neg (by omega), decide_eq_true hi,
    Bool.true_and, Nat.add_sub_cancel]

theorem getLsbD_shl2_zero (a : Byte) : (shl2 a).getLsbD 0 = false := by
  rw [shl2_eq_setWidth, BitVec.getLsbD_setWidth, BitVec.getLsbD_append]
  rfl

theorem getLsbD_shl2_one (a : Byte) : (shl2 a).getLsbD 1 = true := by
  rw [shl2_eq_setWidth, BitVec.getLsbD_setWidth, BitVec.getLsbD_append]
  rfl

theorem getLsbD_shl2_add_two (a : Byte) {i : Nat} (hi : i + 2 < 8) : (shl2 a).getLsbD (i + 2) = a.getLsbD i := by
  rw [shl2_eq_setWidth, BitVec.getLsbD_setWidth, BitVec.getLsbD_append, if_neg (by omega), decide_eq_true hi,
    Bool.true_and, Nat.add_sub_cancel]

/-! ### No two adjacent 0 bits (R137) -/

theorem noAdjacentZeros_mono {m n : Nat} {b : Byte} (h : NoAdjacentZeros n b) (hmn : m ≤ n) : NoAdjacentZeros m b :=
  fun i hi => h i (hi.trans_le hmn)

theorem noAdjacentZeros_of_le_one {n : Nat} (b : Byte) (hn : n ≤ 1) : NoAdjacentZeros n b :=
  fun _ hi => absurd hi (by omega)

/-- The appended bit 1 makes no pair of zeros. -/
theorem noAdjacentZeros_shl1 {n : Nat} {b : Byte} (h : NoAdjacentZeros n b) : NoAdjacentZeros (n + 1) (shl1 b) := by
  rintro ⟨i, hi⟩ hn
  match i with
  | 0 => exact .inl (getLsbD_shl1_zero b)
  | i + 1 =>
    rw [getLsbD_shl1_succ b (by omega), getLsbD_shl1_succ b (by omega)]
    exact h ⟨i, by omega⟩ (Nat.lt_of_succ_lt_succ hn)

/-- The appended bits 1, 0 make none: the 1 stands between the 0 and what was there. -/
theorem noAdjacentZeros_shl2 {n : Nat} {b : Byte} (h : NoAdjacentZeros n b) : NoAdjacentZeros (n + 2) (shl2 b) := by
  rintro ⟨i, hi⟩ hn
  match i with
  | 0 => exact .inr (getLsbD_shl2_one b)
  | 1 => exact .inl (getLsbD_shl2_one b)
  | i + 2 =>
    rw [getLsbD_shl2_add_two b (by omega), getLsbD_shl2_add_two b (by omega)]
    exact h ⟨i, by omega⟩ (Nat.lt_of_succ_lt_succ (Nat.lt_of_succ_lt_succ hn))

/-- A 4-bit count, wrapped or not, is at most what it was and what was added. -/
theorem toNat_add_le (n k : BitVec 4) : (n + k).toNat ≤ n.toNat + k.toNat := by
  rw [BitVec.toNat_add]
  exact Nat.mod_le _ _

/-- R134, R138: a byte of eight or nine bits goes to BUF with no two adjacent zeros among its eight. -/
theorem completionCheck_symbolsOk (ms : Time) {s : State} (hd : s.dstate = .gb) (h : SymbolsOk s) :
    SymbolsOk (completionCheck ms s) := by
  have hstored (hfull : 8 ≤ s.bitCnt.toNat) (i : Fin 10) (hi : i.val < (s.byteCnt + 1).toNat) :
      NoAdjacentZeros 8 (s.buf.setIfInBounds s.byteCnt.toNat s.acc)[i] := by
    rw [Fin.getElem_fin, Vector.getElem_setIfInBounds]
    split_ifs with hlast
    · exact noAdjacentZeros_mono (h.acc_ok hd) hfull
    · have hcount := toNat_add_le s.byteCnt 1
      exact h.buf_ok i (by bv_omega)
  rcases completionCheck_cases ms s with ⟨-, hc⟩ | ⟨hfull, -, hc⟩ | ⟨hfull, hten, hc⟩ <;> rw [hc]
  · exact h
  · exact ⟨fun hgb => (by cases hgb), hstored hfull, h.msg_ok⟩
  · refine ⟨fun hgb => (by cases hgb), fun i hi => ?_, .inr fun i => ?_⟩
    · simp only [finalize_byteCnt, finalize_buf] at hi ⊢
      exact hstored hfull i hi
    · simp only [finalize_msg]
      exact hstored hfull i (by rw [hten]; exact i.isLt)

/-- Leaving GB asks nothing of ACC. -/
theorem symbolsOk_leave {s : State} (h : SymbolsOk s) {d : DState} (hd : d ≠ .gb) :
    SymbolsOk { s with dstate := d } :=
  ⟨fun hgb => absurd hgb hd, h.buf_ok, h.msg_ok⟩

theorem statsUpdate_symbolsOk (c : StatClass) (dur : Time) {s : State} (h : SymbolsOk s) :
    SymbolsOk (statsUpdate c dur s) := by
  rw [statsUpdate_eq]
  exact ⟨h.acc_ok, h.buf_ok, h.msg_ok⟩

theorem fsmStep_symbolsOk (ev : Event) (dur ms : Time) {s : State} (h : SymbolsOk s) :
    SymbolsOk (fsmStep ev dur ms s) := by
  cases hd : s.dstate with
  | idle =>
    rw [fsmStep_of_idle _ _ _ hd]
    cases ev with
    | g1 => exact symbolsOk_leave h (by decide)
    | _ => exact h
  | msf =>
    rw [fsmStep_of_msf _ _ _ hd]
    cases ev with
    | s0 => exact h
    | s1 => exact ⟨fun hgb => (by cases hgb), fun _ hi => absurd hi (Nat.not_lt_zero _), h.msg_ok⟩
    | _ => exact symbolsOk_leave h (by decide)
  | bsf =>
    rw [fsmStep_of_bsf _ _ _ hd]
    cases ev with
    | s0 => exact h
    | s1 => exact ⟨fun _ => noAdjacentZeros_of_le_one _ (Nat.zero_le 1), h.buf_ok, h.msg_ok⟩
    | l1 => exact ⟨fun _ => noAdjacentZeros_of_le_one _ (Nat.le_refl 1), h.buf_ok, h.msg_ok⟩
    | _ => exact symbolsOk_leave h (by decide)
  | gb =>
    rw [fsmStep_of_gb _ _ _ hd]
    cases ev with
    | s0 => exact statsUpdate_symbolsOk .high dur h
    | s1 =>
      have happend : SymbolsOk { s with acc := shl1 s.acc, bitCnt := s.bitCnt + 1 } :=
        ⟨fun _ => noAdjacentZeros_mono (noAdjacentZeros_shl1 (h.acc_ok hd)) (toNat_add_le _ _), h.buf_ok, h.msg_ok⟩
      exact completionCheck_symbolsOk ms ((statsUpdate_dstate ..).trans hd) (statsUpdate_symbolsOk .low1 dur happend)
    | l1 =>
      have happend : SymbolsOk { s with acc := shl2 s.acc, bitCnt := s.bitCnt + 2 } :=
        ⟨fun _ => noAdjacentZeros_mono (noAdjacentZeros_shl2 (h.acc_ok hd)) (toNat_add_le _ _), h.buf_ok, h.msg_ok⟩
      exact completionCheck_symbolsOk ms ((statsUpdate_dstate ..).trans hd) (statsUpdate_symbolsOk .low0 dur happend)
    | _ => exact symbolsOk_leave h (by decide)

theorem exec_symbolsOk {i : Instr} {s t : State} (hs : SymbolsOk s) (h : exec i s = .next t) : SymbolsOk t := by
  by_cases hedge : isEdge i
  · obtain ⟨level, ts, ms, rfl⟩ := hedge
    obtain rfl := Host.Outcome.next.inj ((exec_edge level ts ms s).symm.trans h)
    split
    · exact fsmStep_symbolsOk _ _ ms ⟨hs.acc_ok, hs.buf_ok, hs.msg_ok⟩
    · exact hs
  · rw [command_hostWrites hedge h]
    exact ⟨hs.acc_ok, hs.buf_ok, hs.msg_ok⟩

theorem symbolsOk_initial (cfg : Config.Params) (nv : Memory) (inbox : List Arrival) :
    SymbolsOk (State.initial cfg nv inbox) :=
  ⟨fun hgb => (by cases hgb), fun _ hi => absurd hi (Nat.not_lt_zero _), .inl rfl⟩

/-- Settles O60: the operations keep it, and a reset receives nothing. -/
theorem everyStepKeepsSymbolsFreeOfDoubleZeros : Obligations.EveryStepKeepsSymbolsFreeOfDoubleZeros :=
  fun _ _ hs h => step_keeps (P := SymbolsOk) (fun _ _ _ _ hok => ⟨hok.acc_ok, hok.buf_ok, hok.msg_ok⟩)
    (fun _ _ _ => exec_symbolsOk) (fun s _ _ => symbolsOk_initial s.cfg _ s.inbox) hs h

/-- Settles O58: reset is `State.initial` of parameters within R8 and of a store in canonical form. -/
theorem invariantsHoldAtReset : Obligations.InvariantsHoldAtReset :=
  ⟨invariants_initial [] config_params_wf (Memory.ofContents_wf _), symbolsOk_initial _ _ _⟩

end Sys2Proof.Machine
end

section
/-! Two noninterference results (R42, R139). For R139, a command neither reads nor writes ACC, and of an EDGE only a
completed byte reads it, by when every bit of it has been received. For R42, each response is read off the registers the
host can observe. -/

namespace Sys2Proof.Machine

open Sys2Proof.Safety

/-! ### Commands do not read ACC -/

/-- `s` with another value in ACC. -/
def withAcc (a : Byte) (s : State) : State := { s with acc := a }

theorem addEntry_withAcc (a : Byte) (s : State) (e : Entry) :
    addEntry (withAcc a s) e = withAcc a (addEntry s e) := by
  by_cases hnoop : matchAny s e = true ∨ s.cfg.maxPairs ≤ s.pairCount.toNat
  · rw [addEntry_noop s e hnoop, addEntry_noop (withAcc a s) e hnoop]
  · obtain ⟨hmatch, hfull⟩ := not_or.1 hnoop
    have hfresh : matchAny s e = false := Bool.eq_false_iff.2 hmatch
    rw [addEntry_append s e hfresh (Nat.lt_of_not_le hfull),
      addEntry_append (withAcc a s) e hfresh (Nat.lt_of_not_le hfull)]
    rfl

theorem loadEntries_withAcc (a : Byte) (s : State) (n : Nat) :
    loadEntries (withAcc a s) n = withAcc a (loadEntries s n) :=
  List.foldl_hom (withAcc a) fun _ _ => rfl

theorem restore_withAcc (a : Byte) (s : State) : restore (withAcc a s) = withAcc a (restore s) := by
  rw [restore_eq, restore_eq, apply_ite (withAcc a), ← loadEntries_withAcc]
  rfl

theorem exec_withAcc {i : Instr} {s t : State} (hedge : ¬ isEdge i) (a : Byte) (h : exec i s = .next t) :
    exec i (withAcc a s) = .next (withAcc a t) := by
  cases i with
  | edge level ts ms => exact absurd ⟨level, ts, ms, rfl⟩ hedge
  | addpair e =>
    obtain rfl := Host.Outcome.next.inj h
    rw [exec_addpair, addEntry_withAcc]
    rfl
  | init =>
    obtain rfl := Host.Outcome.next.inj h
    rw [exec_init, restore_withAcc]
    rfl
  | setstat enable =>
    obtain rfl := Host.Outcome.next.inj h
    rcases BitVec.eq_zero_or_eq_one enable with rfl | rfl <;> rfl
  | getmsg | getstat =>
    obtain rfl := Host.Outcome.next.inj h
    rw [apply_ite (withAcc a)]
    rfl
  | _ =>
    obtain rfl := Host.Outcome.next.inj h
    rfl

/-! ### Stale bits of ACC -/

/-- The bits of the symbol being received in `s` are the same in `s` and in `a` (R139). -/
def SymbolBitsAgree (s : State) (a : Byte) : Prop :=
  s.dstate = .gb → ∀ i : Fin 8, i.val < s.bitCnt.toNat → s.acc.getLsbD i.val = a.getLsbD i.val

theorem accSim_withAcc {s : State} {a : Byte} (h : SymbolBitsAgree s a) : AccSim s (withAcc a s) := ⟨rfl, h⟩

theorem accSim_refl (s : State) : AccSim s s := ⟨rfl, fun _ _ _ => rfl⟩

/-- Outside GB no symbol is being received. -/
theorem accSim_of_ne_gb (s : State) (a : Byte) {d : DState} (hd : d ≠ .gb) :
    AccSim { s with dstate := d } (withAcc a { s with dstate := d }) :=
  ⟨rfl, fun hgb => absurd hgb hd⟩

/-- With eight bits received nothing of ACC is stale. -/
theorem acc_eq_of_full {s : State} {a : Byte} (h : SymbolBitsAgree s a) (hd : s.dstate = .gb)
    (hfull : 8 ≤ s.bitCnt.toNat) : s.acc = a :=
  BitVec.eq_of_getLsbD_eq fun i hi => h hd ⟨i, hi⟩ (hi.trans_le hfull)

theorem completionCheck_accSim (ms : Time) {s : State} {a : Byte} (hd : s.dstate = .gb) (h : SymbolBitsAgree s a) :
    AccSim (completionCheck ms s) (completionCheck ms (withAcc a s)) := by
  rcases Nat.lt_or_ge s.bitCnt.toNat 8 with hpart | hfull
  · rw [completionCheck_of_lt ms hpart, completionCheck_of_lt ms (s := withAcc a s) hpart]
    exact accSim_withAcc h
  · obtain rfl := acc_eq_of_full h hd hfull
    exact accSim_refl _

theorem statsUpdate_withAcc (c : StatClass) (dur : Time) (a : Byte) (s : State) :
    statsUpdate c dur (withAcc a s) = withAcc a (statsUpdate c dur s) := by
  rw [statsUpdate_eq, statsUpdate_eq]
  rfl

theorem symbolBitsAgree_statsUpdate (c : StatClass) (dur : Time) {s : State} {a : Byte} (h : SymbolBitsAgree s a) :
    SymbolBitsAgree (statsUpdate c dur s) a := by
  rw [statsUpdate_eq]
  exact h

theorem statsUpdate_accSim (c : StatClass) (dur : Time) {s : State} {a : Byte} (h : SymbolBitsAgree s a) :
    AccSim (statsUpdate c dur s) (statsUpdate c dur (withAcc a s)) := by
  rw [statsUpdate_withAcc]
  exact accSim_withAcc (symbolBitsAgree_statsUpdate c dur h)

/-- A sampled append and the check after it, where the appended symbols agree. -/
theorem append_accSim (c : StatClass) (dur ms : Time) {s : State} {a b : Byte} {n : BitVec 4} (hd : s.dstate = .gb)
    (h : ∀ i : Fin 8, i.val < n.toNat → a.getLsbD i.val = b.getLsbD i.val) :
    AccSim (completionCheck ms (statsUpdate c dur { s with acc := a, bitCnt := n }))
      (completionCheck ms (statsUpdate c dur { s with acc := b, bitCnt := n })) := by
  have hother : { s with acc := b, bitCnt := n } = withAcc b { s with acc := a, bitCnt := n } := rfl
  rw [hother, statsUpdate_withAcc]
  exact completionCheck_accSim ms ((statsUpdate_dstate ..).trans hd)
    (symbolBitsAgree_statsUpdate c dur (s := { s with acc := a, bitCnt := n }) fun _ => h)

theorem getLsbD_shl1_congr {a b : Byte} {n : BitVec 4}
    (h : ∀ i : Fin 8, i.val < n.toNat → a.getLsbD i.val = b.getLsbD i.val) (i : Fin 8)
    (hi : i.val < (n + 1).toNat) : (shl1 a).getLsbD i.val = (shl1 b).getLsbD i.val := by
  have hcount := toNat_add_le n 1
  obtain ⟨i, hlt⟩ := i
  match i with
  | 0 => rw [getLsbD_shl1_zero, getLsbD_shl1_zero]
  | i + 1 =>
    rw [getLsbD_shl1_succ a hlt, getLsbD_shl1_succ b hlt]
    exact h ⟨i, by omega⟩ (Nat.lt_of_succ_lt_succ (hi.trans_le hcount))

theorem getLsbD_shl2_congr {a b : Byte} {n : BitVec 4}
    (h : ∀ i : Fin 8, i.val < n.toNat → a.getLsbD i.val = b.getLsbD i.val) (i : Fin 8)
    (hi : i.val < (n + 2).toNat) : (shl2 a).getLsbD i.val = (shl2 b).getLsbD i.val := by
  have hcount := toNat_add_le n 2
  obtain ⟨i, hlt⟩ := i
  match i with
  | 0 => rw [getLsbD_shl2_zero, getLsbD_shl2_zero]
  | 1 => rw [getLsbD_shl2_one, getLsbD_shl2_one]
  | i + 2 =>
    rw [getLsbD_shl2_add_two a hlt, getLsbD_shl2_add_two b hlt]
    exact h ⟨i, by omega⟩ (Nat.lt_of_succ_lt_succ (Nat.lt_of_succ_lt_succ (hi.trans_le hcount)))

theorem fsmStep_accSim (ev : Event) (dur ms : Time) {s : State} {a : Byte} (h : SymbolBitsAgree s a) :
    AccSim (fsmStep ev dur ms s) (fsmStep ev dur ms (withAcc a s)) := by
  cases hd : s.dstate with
  | idle =>
    rw [fsmStep_of_idle _ _ _ hd, fsmStep_of_idle (s := withAcc a s) _ _ _ hd]
    cases ev with
    | g1 => exact accSim_of_ne_gb s a (d := .msf) (by decide)
    | _ => exact accSim_withAcc h
  | msf =>
    rw [fsmStep_of_msf _ _ _ hd, fsmStep_of_msf (s := withAcc a s) _ _ _ hd]
    cases ev with
    | s0 => exact accSim_withAcc h
    | s1 => exact accSim_of_ne_gb { s with byteCnt := 0, bitCnt := 0 } a (d := .bsf) (by decide)
    | _ => exact accSim_of_ne_gb s a (d := .idle) (by decide)
  | bsf =>
    rw [fsmStep_of_bsf _ _ _ hd, fsmStep_of_bsf (s := withAcc a s) _ _ _ hd]
    cases ev with
    | s0 => exact accSim_withAcc h
    | s1 => exact ⟨rfl, fun _ i hi => absurd hi (Nat.not_lt_zero _)⟩
    | l1 => exact accSim_refl _
    | _ => exact accSim_of_ne_gb s a (d := .idle) (by decide)
  | gb =>
    rw [fsmStep_of_gb _ _ _ hd, fsmStep_of_gb (s := withAcc a s) _ _ _ hd]
    cases ev with
    | s0 => exact statsUpdate_accSim .high dur h
    | s1 => exact append_accSim .low1 dur ms hd (getLsbD_shl1_congr (h hd))
    | l1 => exact append_accSim .low0 dur ms hd (getLsbD_shl2_congr (h hd))
    | _ => exact accSim_of_ne_gb s a (d := .idle) (by decide)

/-- Settles O28: a command carries the other ACC along; an EDGE appends the same bits to both, and completes a byte only
when none of either is stale. -/
theorem staleAccumulatorIsUnobservable : Obligations.StaleAccumulatorIsUnobservable := by
  unfold Obligations.StaleAccumulatorIsUnobservable
  intro i s t s1 t1 hsim hs ht
  obtain ⟨hst, hagree⟩ := hsim
  have hwith : t = withAcc t.acc s := hst
  rw [hwith] at ht
  by_cases hedge : isEdge i
  · obtain ⟨level, ts, ms, rfl⟩ := hedge
    obtain rfl := Host.Outcome.next.inj ((exec_edge level ts ms s).symm.trans hs)
    obtain rfl := Host.Outcome.next.inj ((exec_edge level ts ms (withAcc t.acc s)).symm.trans ht)
    by_cases hen : s.enabled = true
    · rw [if_pos hen, if_pos (show (withAcc t.acc s).enabled = true from hen)]
      exact fsmStep_accSim _ _ ms (s := { s with prevTs := ts }) hagree
    · rw [if_neg hen, if_neg (show ¬ (withAcc t.acc s).enabled = true from hen)]
      exact accSim_withAcc hagree
  · obtain rfl := Host.Outcome.next.inj ((exec_withAcc hedge t.acc hs).symm.trans ht)
    have hframe := command_hostWrites hedge hs
    refine accSim_withAcc ?_
    rw [hframe]
    exact hagree

/-! ### What the responses read -/

theorem matchAny_of_hostAgree {s t : State} (h : HostAgree s t) (e : Entry) : matchAny s e = matchAny t e := by
  rw [matchAny, matchAny, h.pair]

theorem addEntry_pairCount (s : State) (e : Entry) : (addEntry s e).pairCount =
    if matchAny s e = true ∨ s.cfg.maxPairs ≤ s.pairCount.toNat then s.pairCount else s.pairCount + 1 := by
  split_ifs with hnoop
  · rw [addEntry_noop s e hnoop]
  · obtain ⟨hmatch, hfull⟩ := not_or.1 hnoop
    rw [addEntry_append s e (Bool.eq_false_iff.2 hmatch) (Nat.lt_of_not_le hfull)]

theorem restore_pairCount (s : State) :
    (restore s).pairCount = if (nvByte s 0).toNat ≤ s.cfg.maxPairs then nvByte s 0 else 0 := by
  split_ifs with hle
  · rw [restore_of_le hle]
  · rw [restore_of_gt (Nat.lt_of_not_le hle)]

/-- GETPAIR looks below the count. -/
theorem getEntry_of_hostAgree {s t : State} (h : HostAgree s t) (index : BitVec 8) :
    getEntry s index = getEntry t index := by
  rcases Nat.lt_or_ge index.toNat s.pairCount.toNat with hvalid | hinvalid
  · have hentry : entry s index.toNat = entry t index.toNat := by
      have htake := congrArg (·[index.toNat]?) h.pair
      simp only [List.getElem?_take_of_lt hvalid, List.getElem?_take_of_lt (h.pairCount ▸ hvalid)] at htake
      rw [entry, entry, List.getD_eq_getElem?_getD, htake, List.getD_eq_getElem?_getD]
    rw [getEntry_of_lt hvalid, getEntry_of_lt (h.pairCount ▸ hvalid), hentry]
  · rw [getEntry_of_le hinvalid, getEntry_of_le (h.pairCount ▸ hinvalid)]

/-- Settles O57: response by response, the registers and tests it is formed from. -/
theorem responsesRevealOnlyObservableState : Obligations.ResponsesRevealOnlyObservableState := by
  unfold Obligations.ResponsesRevealOnlyObservableState
  intro i s t s1 t1 hedge hagree hnv hcfg hs ht
  cases i with
  | edge level ts ms => exact absurd ⟨level, ts, ms, rfl⟩ hedge
  | isrdy =>
    obtain rfl := Host.Outcome.next.inj hs
    obtain rfl := Host.Outcome.next.inj ht
    rw [respond_resp, respond_resp, hagree.msgReady]
  | getmsg =>
    obtain rfl := Host.Outcome.next.inj ((exec_getmsg s).symm.trans hs)
    obtain rfl := Host.Outcome.next.inj ((exec_getmsg t).symm.trans ht)
    rw [← hagree.msgReady]
    split_ifs with hready
    · rw [respond_resp, respond_resp, hagree.msg hready]
    · rfl
  | since ms =>
    obtain rfl := Host.Outcome.next.inj hs
    obtain rfl := Host.Outcome.next.inj ht
    rw [respond_resp, respond_resp, hagree.lastPktTime]
  | addpair e =>
    obtain rfl := Host.Outcome.next.inj ((exec_addpair s e).symm.trans hs)
    obtain rfl := Host.Outcome.next.inj ((exec_addpair t e).symm.trans ht)
    rw [respond_resp, respond_resp, addEntry_pairCount, addEntry_pairCount, matchAny_of_hostAgree hagree,
      hagree.pairCount, hcfg (.inr ⟨e, rfl⟩)]
  | getpair index =>
    obtain rfl := Host.Outcome.next.inj ((exec_getpair s index).symm.trans hs)
    obtain rfl := Host.Outcome.next.inj ((exec_getpair t index).symm.trans ht)
    rw [respond_resp, respond_resp, getEntry_of_hostAgree hagree, hagree.pairCount]
  | getstat =>
    obtain rfl := Host.Outcome.next.inj ((exec_getstat s).symm.trans hs)
    obtain rfl := Host.Outcome.next.inj ((exec_getstat t).symm.trans ht)
    rw [← hagree.statsEn]
    split_ifs with hen
    · rw [respond_resp, respond_resp, hagree.stat hen]
    · rfl
  | init =>
    obtain rfl := Host.Outcome.next.inj ((exec_init s).symm.trans hs)
    obtain rfl := Host.Outcome.next.inj ((exec_init t).symm.trans ht)
    rw [respond_resp, respond_resp, restore_pairCount, restore_pairCount,
      nvByte_congr (hnv rfl) (hcfg (.inl rfl)), hcfg (.inl rfl)]
  | _ =>
    obtain rfl := Host.Outcome.next.inj hs
    obtain rfl := Host.Outcome.next.inj ht
    rfl

end Sys2Proof.Machine
end

section
/-! A burst of identical candidates inside the repeat window (R162, R163): each finalization counts one more, up to the
256 at which the count sticks, and 256 is no threshold. -/

namespace Sys2Proof.Machine

open Sys2Proof.Safety

theorem burst_cons (b : Message) (s : State) (ms : Time) (rest : List Time) :
    burst b s (ms :: rest) = burst b (burst b s [ms]) rest := rfl

/-- R153: the same message again, inside the window. -/
theorem nextRepeatCnt_of_repeat {now : Time} {s : State} (hthresh : s.repeatThresh ≠ 0) (hsame : s.buf = s.msg)
    (hwindow : units (sub32 now s.lastPktTime) ≤ s.repeatTimeout.toNat) :
    nextRepeatCnt now s = satinc s.repeatCnt := by
  have hen : repeatEnabled s = true := bne_iff_ne.2 hthresh
  have hopen := mt (windowExceeded_iff_units (sub32 now s.lastPktTime) s.repeatTimeout).1 hwindow.not_gt
  rw [nextRepeatCnt, if_pos hen, if_neg hopen, if_pos hsame]

/-- The count of a whole burst, by induction on it; the threshold is not written. -/
theorem burst_repeatCnt {b : Message} {s : State} {times : List Time} (hthresh : s.repeatThresh ≠ 0)
    (hmsg : s.msg = b) (hcnt : s.repeatCnt.toNat ≤ 256) (hwindow : burstInWindow b s times) :
    (burst b s times).repeatCnt.toNat = min (s.repeatCnt.toNat + times.length) 256 ∧
    (burst b s times).repeatThresh = s.repeatThresh := by
  induction times generalizing s with
  | nil => exact ⟨(min_eq_left hcnt).symm, rfl⟩
  | cons ms rest ih =>
    obtain ⟨hfirst, hrest⟩ := hwindow
    have hone : (burst b s [ms]).repeatCnt.toNat = min (s.repeatCnt.toNat + 1) 256 := by
      have hcount : (burst b s [ms]).repeatCnt = nextRepeatCnt ms { s with buf := b } := finalize_repeatCnt ..
      rw [hcount, nextRepeatCnt_of_repeat (s := { s with buf := b }) hthresh hmsg.symm hfirst, satinc_toNat]
    have hkept : (burst b s [ms]).repeatThresh = s.repeatThresh := finalize_repeatThresh ..
    obtain ⟨hcount, hlast⟩ := ih (hkept ▸ hthresh) (finalize_msg ..) (hone ▸ min_le_right ..) hrest
    refine ⟨?_, hlast.trans hkept⟩
    rw [burst_cons, hcount, hone, List.length_cons]
    omega

/-- Settles O34: the threshold is at most 255, so the count it equals has not stuck. -/
theorem burstIsEligibleOnce : Obligations.BurstIsEligibleOnce := by
  unfold Obligations.BurstIsEligibleOnce
  intro b s times hthresh hmsg hcnt hwindow
  obtain ⟨hcount, hkept⟩ := burst_repeatCnt hthresh hmsg hcnt hwindow
  have hlt : s.repeatThresh.toNat < 256 := s.repeatThresh.isLt
  refine ⟨hcount, ?_⟩
  rw [hcount, hkept]
  omega

end Sys2Proof.Machine
end
